-- ==== Sys2Proof/Word.lean ====
section
/-! DEFINITION. The two word types of the hardware: a byte of a frame and a 16-bit register value. -/

namespace Sys2Proof

/-- One byte of a frame, bit 0 the least significant (rule R9). -/
abbrev Byte := BitVec 8

/-- A register value, 0 to 65535 (VALUE_W of rule R6). -/
abbrev Value := BitVec 16

/-- A byte sequence exchanged over the bus, byte 0 first (rules R10, R34). -/
abbrev Frame := List Byte

end Sys2Proof
end

