-- ==== Sys2Proof/Config.lean ====
section
/-! DEFINITION. What an instance of the block fixes: the data types of the Command Table, the constants of
rule R6, the open parameters of rule R7, the free values, and the reference configuration REF of rule R8. -/

namespace Sys2Proof

/-- R19: whether a value is transmitted meaningfully and what the response means. -/
inductive Direction where
  | write
  | read
deriving DecidableEq, Repr, Inhabited

/-- R20: the five microcontroller peripherals, in the document's listing order. -/
inductive McuClass where
  | gpio
  | pwm
  | frequencyOut
  | analogChannel
  | status
deriving DecidableEq, Repr, Inhabited

/-- R20: the six peripherals: a microcontroller class, or the DAC (which has no type code). -/
inductive Peripheral where
  | mcu (c : McuClass)
  | dac
deriving DecidableEq, Repr, Inhabited

/-- R21. -/
structure RegisterAddress where
  peripheral : Peripheral
  index      : Byte
deriving DecidableEq, Repr, Inhabited

/-- R22: a mnemonic and a label are byte sequences; no operation interprets the label. -/
structure CommandEntry where
  mnemonic  : List Byte
  direction : Direction
  target    : RegisterAddress
  label     : List Byte
deriving DecidableEq, Repr, Inhabited

/-- A map from the five microcontroller classes, written out so that it is plain data. -/
structure PerClass (α : Type) where
  gpio          : α
  pwm           : α
  frequencyOut  : α
  analogChannel : α
  status        : α
deriving DecidableEq, Repr, Inhabited

/-- R99: the two places at which the sweep may look at the stop request; the rule allows either. -/
inductive StopCheck where
  | perEntry
  | perPass
deriving DecidableEq, Repr, Inhabited

/-- R66: success is exit code 0; failure is some non-zero code (N19 gives no number). -/
inductive ExitStatus where
  | success
  | failure
deriving DecidableEq, Repr, Inhabited

/-- The open parameters of rule R7 (and the choice R99 leaves). `table` is TABLE, and T is its length (R23).
The constraints R7 puts on them are `Params.WellFormed` of Machine/Operands.lean, kept apart because the
operations are total on ill-formed tables too (R24, U11). -/
structure Params where
  table     : List CommandEntry
  mnemMax   : Nat
  labelMax  : Nat
  nMax      : PerClass Byte
  typeCode  : PerClass (BitVec 7)
  dirWrite  : BitVec 1
  dacCtrlWr : BitVec 2
  dacCtrlRd : BitVec 2
  mcuAddr   : Int
  dacAddr   : Int
  stopCheck : StopCheck
deriving DecidableEq, Repr, Inhabited

namespace Config

/-! The constants of rule R6. -/

def mcuReqLen : Nat := 4
def mcuRspLen : Nat := 4
def dacWrLen : Nat := 3
def dacRdLen : Nat := 1
def dacRspLen : Nat := 2
def valueMax : Nat := 65535
def typeMax : Nat := 127
def mcuIndexMax : Nat := 255
def dacIndexMax : Nat := 31
def nTypes : Nat := 5
/-- T_SETTLE, in milliseconds. -/
def tSettle : Nat := 25
/-- SWEEP_PERIOD, in milliseconds. -/
def sweepPeriod : Nat := 1000

/-! The free values: no body, so nothing can be proved of what they are. -/

/-- The parameters of this instance of the hardware (R7: "none has a value in the document"); log entry 4. -/
opaque instanceParams : Params

/-- The peer the Bus Port has selected where the spec says "unspecified" (R124): before the first selection
(argument 0) and after a failed one (argument: the number of bus log entries); log entry 7. -/
opaque freePeer : Nat → Int

/-- How the one-shot process exits when its request is rejected before any bus call: the spec states no exit
code for it (R66); log entry 14. -/
opaque oneShotRejectExit : ExitStatus

/-- REF, the reference configuration of rules R7 and R8: the spec's own placeholder values, "not claims about the
real device". Mnemonic and label bytes are the ASCII codes of their characters (R8). -/
def ref : Params where
  table :=
    [⟨[0x47, 0x57, 0x30], .write, ⟨.mcu .gpio, 0⟩,
        [0x67, 0x70, 0x69, 0x6F, 0x30, 0x20, 0x77, 0x72, 0x69, 0x74, 0x65]⟩,   -- GW0 "gpio0 write"
     ⟨[0x47, 0x52, 0x30], .read, ⟨.mcu .gpio, 0⟩,
        [0x67, 0x70, 0x69, 0x6F, 0x30, 0x20, 0x72, 0x65, 0x61, 0x64]⟩,         -- GR0 "gpio0 read"
     ⟨[0x50, 0x57, 0x31], .write, ⟨.mcu .pwm, 1⟩,
        [0x70, 0x77, 0x6D, 0x31, 0x20, 0x64, 0x75, 0x74, 0x79]⟩,               -- PW1 "pwm1 duty"
     ⟨[0x41, 0x52, 0x32], .read, ⟨.mcu .analogChannel, 2⟩,
        [0x61, 0x64, 0x63, 0x32]⟩,                                             -- AR2 "adc2"
     ⟨[0x53, 0x54], .read, ⟨.mcu .status, 0⟩,
        [0x73, 0x74, 0x61, 0x74, 0x75, 0x73]⟩,                                 -- ST  "status"
     ⟨[0x46, 0x57, 0x30], .write, ⟨.mcu .frequencyOut, 0⟩,
        [0x66, 0x72, 0x65, 0x71, 0x30]⟩,                                       -- FW0 "freq0"
     ⟨[0x44, 0x52, 0x35], .read, ⟨.dac, 5⟩,
        [0x64, 0x61, 0x63, 0x35, 0x20, 0x72, 0x65, 0x61, 0x64]⟩,               -- DR5 "dac5 read"
     ⟨[0x44, 0x57, 0x35], .write, ⟨.dac, 5⟩,
        [0x64, 0x61, 0x63, 0x35, 0x20, 0x77, 0x72, 0x69, 0x74, 0x65]⟩]         -- DW5 "dac5 write"
  mnemMax := 4
  labelMax := 16
  nMax := ⟨7, 3, 1, 7, 0⟩
  typeCode := ⟨0, 1, 2, 3, 4⟩
  dirWrite := 1
  dacCtrlWr := 0b01
  dacCtrlRd := 0b10
  mcuAddr := 0x10
  dacAddr := 0x20
  stopCheck := .perEntry

end Config

end Sys2Proof
end

