-- ==== Sys2Proof/Syntax.lean ====
section
/-! DEFINITION. The instructions: one constructor per row of spec/opcode_table.json, and the interfaces on
which an instruction's word is presented. -/

namespace Sys2Proof

/-- Where a word stands: the block's `op` port (R56), or a frame on the bus, by direction and peer (R46). The five
interfaces have overlapping words (every 32-bit pattern is both an MCU_REQ and an MCU_RSP), so the interface is part of
what is decoded; log entry 2. -/
inductive Channel where
  | opPort
  | hostToMcu
  | mcuToHost
  | hostToDac
  | dacToHost
deriving DecidableEq, Repr

/-- The rows of spec/opcode_table.json. The eight operations take their operands from the input ports (R27), so
their constructors carry none; a frame carries its own fields. -/
inductive Instr where
  /-- op 0, R67. -/
  | encMcu
  /-- op 1, R68. -/
  | decMcu
  /-- op 2, R71. -/
  | encDacWr
  /-- op 3, R72. -/
  | encDacRd
  /-- op 4, R73. -/
  | decDac
  /-- op 5, R77. -/
  | lookup
  /-- op 6, R79. -/
  | list
  /-- op 7, R82. -/
  | encCmd
  /-- R47: D, TYPE, INDEX, value. -/
  | mcuReq (d : BitVec 1) (t : BitVec 7) (i : Byte) (v : Value)
  /-- R48: PEER0, PEER1 (not interpreted), value. -/
  | mcuRsp (p0 p1 : Byte) (v : Value)
  /-- R49: REG, the reserved bit Z, CTRL, value. -/
  | dacWr (r : BitVec 5) (z : BitVec 1) (c : BitVec 2) (v : Value)
  /-- R50: REG, the reserved bit Z, CTRL. -/
  | dacRd (r : BitVec 5) (z : BitVec 1) (c : BitVec 2)
  /-- R51: value. -/
  | dacRsp (v : Value)
deriving DecidableEq, Repr

end Sys2Proof
end

