-- ==== Sys2Proof/WellFormed.lean ====
section
/-! DEFINITION. Which instruction terms are instructions: the reserved bit Z of a DAC request is 0 (R49, R60). Every
other field has exactly the width of its place in the frame, so nothing else can be wrong (R47: "there is no
unused bit"). -/

namespace Sys2Proof

/-- The check of rule R60 on the two DAC request formats; true of every other instruction. -/
def Instr.wf : Instr → Bool
  | .encMcu => true
  | .decMcu => true
  | .encDacWr => true
  | .encDacRd => true
  | .decDac => true
  | .lookup => true
  | .list => true
  | .encCmd => true
  | .mcuReq _ _ _ _ => true
  | .mcuRsp _ _ _ => true
  | .dacWr _ z _ _ => z == 0
  | .dacRd _ z _ => z == 0
  | .dacRsp _ => true

/-- `i` is an instruction of the hardware. -/
abbrev Instr.WellFormed (i : Instr) : Prop := i.wf = true

end Sys2Proof
end

