-- ==== Sys2Proof/Decode.lean ====
section
/-! DEFINITION. Decoding a word of an interface to an instruction, and the encoder written from the same tables
(rules R46 to R56). -/

namespace Sys2Proof

/-! The byte helpers of rules R33 and R53. -/

/-- `value[15:8]`. -/
def hiByte (v : Value) : Byte := v.extractLsb' 8 8

/-- `value[7:0]`. -/
def loByte (v : Value) : Byte := v.extractLsb' 0 8

/-- `{hi, lo} = (hi << 8) | lo`, high byte first (R53). -/
def joinBytes (hi lo : Byte) : Value := (hi.setWidth 16 <<< 8) ||| lo.setWidth 16

/-- Byte 0 of MCU_REQ: D in bit 7, TYPE in bits 6:0 (R47). -/
def mcuByte0 (d : BitVec 1) (t : BitVec 7) : Byte := d ++ t

/-- Byte 0 of a DAC request: REG in bits 7:3, Z in bit 2, CTRL in bits 1:0 (R49). -/
def dacByte0 (r : BitVec 5) (z : BitVec 1) (c : BitVec 2) : Byte := r ++ z ++ c

/-- D of byte 0 of MCU_REQ: `f[0][7]` (R70). -/
def mcuDir (b : Byte) : BitVec 1 := b.extractLsb' 7 1

/-- TYPE of byte 0 of MCU_REQ: `f[0][6:0]` (R70). -/
def mcuType (b : Byte) : BitVec 7 := b.extractLsb' 0 7

/-- REG of byte 0 of a DAC request: `f[0][7:3]` (R75). -/
def dacReg (b : Byte) : BitVec 5 := b.extractLsb' 3 5

/-- The reserved bit of byte 0 of a DAC request: `f[0][2]` (R75). -/
def dacReserved (b : Byte) : BitVec 1 := b.extractLsb' 2 1

/-- CTRL of byte 0 of a DAC request: `f[0][1:0]` (R75). -/
def dacCtrl (b : Byte) : BitVec 2 := b.extractLsb' 0 2

/-- Why a word is no instruction. -/
inductive DecodeError where
  /-- The interface carries no frame of this length (R46). -/
  | wrongLength (ch : Channel) (n : Nat)
  /-- The `op` port is 3 bits wide; the word has a bit above it set (R27, R56). -/
  | opTooWide (b : Byte)
  /-- Bit 2 of byte 0 of a DAC request is set (R60, U2). -/
  | reservedBit (b : Byte)
deriving DecidableEq, Repr

/-- The eight `op` codes; "All eight codes are assigned; no op value is reserved" (R56). -/
def opInstr (op : BitVec 3) : Instr :=
  match op.toNat with
  | 0 => .encMcu
  | 1 => .decMcu
  | 2 => .encDacWr
  | 3 => .encDacRd
  | 4 => .decDac
  | 5 => .lookup
  | 6 => .list
  | _ => .encCmd

/-- The instruction a word stands for on an interface. -/
def decode (ch : Channel) (bytes : List Byte) : Except DecodeError Instr :=
  match ch, bytes with
  | .opPort, [b] =>
      if b.extractLsb' 3 5 = 0 then .ok (opInstr (b.extractLsb' 0 3)) else .error (.opTooWide b)
  | .hostToMcu, [b0, b1, b2, b3] => .ok (.mcuReq (mcuDir b0) (mcuType b0) b1 (joinBytes b2 b3))
  | .mcuToHost, [b0, b1, b2, b3] => .ok (.mcuRsp b0 b1 (joinBytes b2 b3))
  | .hostToDac, [b0, b1, b2] =>
      if dacReserved b0 = 0 then .ok (.dacWr (dacReg b0) 0 (dacCtrl b0) (joinBytes b1 b2))
      else .error (.reservedBit b0)
  | .hostToDac, [b0] =>
      if dacReserved b0 = 0 then .ok (.dacRd (dacReg b0) 0 (dacCtrl b0)) else .error (.reservedBit b0)
  | .dacToHost, [b0, b1] => .ok (.dacRsp (joinBytes b0 b1))
  | ch, bs => .error (.wrongLength ch bs.length)

/-- The interface and the bytes of an instruction (R46 to R56). -/
def encode : Instr → Channel × List Byte
  | .encMcu => (.opPort, [0])
  | .decMcu => (.opPort, [1])
  | .encDacWr => (.opPort, [2])
  | .encDacRd => (.opPort, [3])
  | .decDac => (.opPort, [4])
  | .lookup => (.opPort, [5])
  | .list => (.opPort, [6])
  | .encCmd => (.opPort, [7])
  | .mcuReq d t i v => (.hostToMcu, [mcuByte0 d t, i, hiByte v, loByte v])
  | .mcuRsp p0 p1 v => (.mcuToHost, [p0, p1, hiByte v, loByte v])
  | .dacWr r z c v => (.hostToDac, [dacByte0 r z c, hiByte v, loByte v])
  | .dacRd r z c => (.hostToDac, [dacByte0 r z c])
  | .dacRsp v => (.dacToHost, [hiByte v, loByte v])

/-- The `n` low bytes of a number, most significant first: a row of the opcode table is one number with byte 0 of the
frame in its most significant byte (R52, R58). -/
def tableBytes : Nat → Nat → List Byte
  | 0, _ => []
  | n + 1, w => BitVec.ofNat 8 (w >>> (8 * n)) :: tableBytes n w

/-- The interface a row's word is taken to stand on, by its length alone. The table's rows share lengths: an 8-bit
word below 8 is an operation's `op` code and any other a DAC_RD frame; a 32-bit word is an MCU_REQ frame (MCU_RSP has
the same length and no fixed bit); log entry 20. -/
def tableWord (nbits w : Nat) : Option (Channel × List Byte) :=
  if w < 2 ^ nbits then
    if nbits ≤ 8 then
      if w < 8 then some (.opPort, tableBytes 1 w) else some (.hostToDac, tableBytes 1 w)
    else if nbits = 16 then some (.dacToHost, tableBytes 2 w)
    else if nbits = 24 then some (.hostToDac, tableBytes 3 w)
    else if nbits = 32 then some (.hostToMcu, tableBytes 4 w)
    else none
  else none

/-- The instruction the decoder reads from the word of an opcode-table row. -/
def decodeTableWord (nbits w : Nat) : Option Instr :=
  match tableWord nbits w with
  | none => none
  | some (ch, bytes) => (decode ch bytes).toOption

end Sys2Proof
end

