-- ==== Sys2Proof/Machine/State.lean ====
section
/-! DEFINITION. The machine's state as plain data, and the state at reset. The block itself has no state (R13 to R18,
R29); what is here is the configuration it is built with, the values on its input ports, what its latest operation
returned, and the environment's state (R26, R124). -/

namespace Sys2Proof.Machine

/-- R27: the values driven on the input ports. `op` selects the operation; an operation reads only the ports its
rule names. -/
structure InPorts where
  op     : BitVec 3
  dir    : BitVec 1
  ptype  : Byte
  index  : Byte
  ctrl   : BitVec 2
  value  : Value
  rx0    : Byte
  rx1    : Byte
  rx2    : Byte
  rx3    : Byte
  keyLen : Nat
  key    : List Byte
  pos    : Nat
deriving DecidableEq, Repr

/-- R85: the two reasons of a ParseError. -/
inductive ParseReason where
  | malformed
  | outOfRange
deriving DecidableEq, Repr

/-- R109: the Bus Port call at which a transaction failed. -/
inductive BusStage where
  | select
  | write
  | read
deriving DecidableEq, Repr

/-- R105: the four error kinds, each with what it records (R106 to R109). -/
inductive Err where
  /-- The offending operand. -/
  | outOfRange (operand : Int)
  /-- The key no entry matches. -/
  | notFound (key : List Byte)
  /-- The token and the reason. -/
  | parseError (reason : ParseReason) (token : List Char)
  /-- Which call failed. -/
  | busError (stage : BusStage)
deriving DecidableEq, Repr

/-- R28: what an operation returns: "a sum type (OK with the named results, or the error alone)". Outputs that a
constructor does not name have no value (U9). -/
inductive OpResult where
  /-- `tx` and `tx_len` of ENC_MCU, ENC_DAC_WR, ENC_DAC_RD. -/
  | frame (f : Frame)
  /-- `rvalue` of DEC_MCU, DEC_DAC. -/
  | value (v : Value)
  /-- `hit = 1` and the entry ports of LOOKUP, LIST. -/
  | entry (pos : Nat) (e : CommandEntry)
  /-- `hit = 0` with status OK of LIST. -/
  | endOfList
  /-- The entry ports, `tx`, `tx_len` and `rsp_len` of ENC_CMD. -/
  | command (pos : Nat) (e : CommandEntry) (f : Frame) (rspLen : Nat)
  /-- A status other than OK, and nothing else. -/
  | error (e : Err)
deriving DecidableEq, Repr

/-- R95: the states of one transaction. -/
inductive TxnState where
  | idle
  | peerSelected
  | written
  | settled
  | readComplete
  | decoded
  | failed
deriving DecidableEq, Repr

/-- R83, R88: the two bus peers. -/
inductive Peer where
  | mcu
  | dac
deriving DecidableEq, Repr

/-- Who asked for a transaction, which decides what its end leads to (R94, R100, R66). -/
inductive Caller where
  /-- A request frame executed as an instruction (the explicit descriptor of R97). -/
  | direct
  /-- A command line of the interactive mode (R65). -/
  | line
  /-- The one-shot mode (R66). -/
  | oneShot
  /-- The poll sweep, for the entry at this position (R98). -/
  | sweep (pos : Nat) (e : CommandEntry)
deriving DecidableEq, Repr

/-- The transaction in flight: its peer, its request frame and its caller. -/
structure Txn where
  peer  : Peer
  frame : Frame
  who   : Caller
deriving DecidableEq, Repr

/-- R98, R99: whether the poll sweep is running, and its cursor. -/
structure Sweep where
  active : Bool
  pos    : Nat
deriving DecidableEq, Repr

/-- R104, R127: the Bus Port is opened before the first transaction and released after the last. -/
inductive PortState where
  | closed
  | opened
  | released
deriving DecidableEq, Repr

/-- R66, R94: the session runs until it ends with an exit status; `terminated` is process-level termination
(U13), which gives none. -/
inductive Session where
  | running
  | ended (e : ExitStatus)
  | terminated
deriving DecidableEq, Repr

/-- R65: a command line, its tokens already read (line reading is outside the scope, R5). -/
inductive Line where
  /-- `H`. -/
  | help
  /-- `Q`. -/
  | quit
  /-- `<mnemonic> [value]`; the absent value token is the empty sequence (R85). -/
  | command (mnemonic : List Byte) (token : List Char)
  /-- `W <index> <value>`. -/
  | dacWrite (index value : Int)
  /-- `R <index>`. -/
  | dacRead (index : Int)
deriving DecidableEq, Repr

/-- What the caller does next. -/
inductive Command where
  /-- Drive the input ports, `op` among them, and evaluate the block (R27, R56). -/
  | eval (p : InPorts)
  /-- A word on an interface. -/
  | word (ch : Channel) (bytes : List Byte)
  /-- A command line of the interactive mode (R65). -/
  | line (l : Line)
  /-- The one-shot mode's four integers (R66, R97). -/
  | oneShot (direction ptype index value : Int)
  /-- Start the poll sweep (R98). -/
  | sweep
deriving DecidableEq, Repr

/-- What comes from outside: completions of the environment's bus calls (R87, R96) and the two requests of
R112 and U13. `none` is BusError. -/
inductive Event where
  /-- The transport was opened and configured, or not (R127). -/
  | opened (ok : Bool)
  /-- `select_peer` returned. -/
  | selected (ok : Bool)
  /-- `write` returned this many bytes written. -/
  | written (n : Option Nat)
  /-- `read` returned these bytes. -/
  | received (bytes : Option (List Byte))
  /-- The external stop request (R99, R112). -/
  | stopRequest
  /-- Process-level termination (U13). -/
  | terminate
deriving DecidableEq, Repr

/-- One entry of the record of bus calls (S5): what was called and what it returned. -/
inductive BusCall where
  | selectPeer (addr : Int) (ok : Bool)
  /-- `peer` is the address that was selected when the call was made. -/
  | write (peer : Int) (f : Frame) (written : Option Nat)
  /-- A wait of `ms / parts` milliseconds. -/
  | delay (ms parts : Nat)
  | read (peer : Int) (n : Nat) (got : Option (List Byte))
deriving DecidableEq, Repr

/-- One thing reported to the user (R110, R98, R65). -/
inductive Report where
  /-- The value a transaction returned. -/
  | value (who : Caller) (v : Value)
  /-- An error, for this request only. -/
  | failure (who : Caller) (e : Err)
  /-- An entry listed by `H`. -/
  | listed (pos : Nat) (e : CommandEntry)
  /-- The transport could not be opened or configured (R127). -/
  | openFailed
deriving DecidableEq, Repr

/-- The whole state. `cfg` is configuration, which no step changes (R17, R23); `inp` and `result` are what stands
on the block's ports; the rest is the environment's (R26) and the outside's. -/
structure State where
  cfg          : Params
  inp          : InPorts
  result       : Option OpResult
  txnState     : TxnState
  current      : Option Txn
  sweep        : Sweep
  stop         : Bool
  selectedPeer : Int
  port         : PortState
  session      : Session
  help         : Option Nat
  program      : List Command
  events       : List Event
  busLog       : List BusCall
  reports      : List Report
deriving DecidableEq, Repr

/-- Why the machine would stop with a fault: never. The block has no traps (R114): an error is a returned status,
and a bus error ends the session or is isolated (R105), both next states. -/
inductive Fault where
deriving DecidableEq, Repr

/-- Why an instruction or a step has no meaning. -/
inductive Refusal where
  /-- Raised by an arm of `exec` whose instruction has no meaning yet. Safe. -/
  | notModelled (mnemonic : String)
  /-- Raised by the meanings of the request frames when a transaction is in flight: "the model gives no meaning to a
  run that starts a transaction while another is in flight" (U7). Safe. -/
  | transactionInFlight
  /-- Raised by the meanings of the request frames when the session has ended and the Bus Port is released (R104,
  R127). Safe. -/
  | sessionEnded
  /-- Raised by the meanings of the request frames while the Bus Port has not been opened: it is "opened and configured
  before the first transaction" (R104, R127). A step opens it first and never gets here; log entry 10. Safe. -/
  | portNotOpen
  /-- Raised by the meanings of the DAC request frames on a frame whose reserved bit is set: "a peer model must refuse
  a frame with the bit set" (U2). Safe. -/
  | reservedBitSet
  /-- Raised by the step when the word presented is no instruction. Safe. -/
  | undecodable (e : DecodeError)
  /-- Raised by the step when a Bus Port call reports more bytes than it was asked for (U12, D32). Safe. -/
  | overReport
  /-- Raised by the step when the outside completes a call that was not made (R96); log entry 9. Safe. -/
  | strayCompletion
deriving DecidableEq, Repr

/-- The input ports at reset: the spec gives them no value (log entry 5). -/
def InPorts.reset (cfg : Params) : InPorts where
  op := 0
  dir := 0
  ptype := 0
  index := 0
  ctrl := 0
  value := 0
  rx0 := 0
  rx1 := 0
  rx2 := 0
  rx3 := 0
  keyLen := 0
  key := List.replicate cfg.mnemMax 0
  pos := 0

/-- The state at start (R124): transaction state Idle, sweep cursor 0, no stop request, the selected peer unspecified, the
parameters at "their constant values". -/
def State.reset : State where
  cfg := Config.instanceParams
  inp := InPorts.reset Config.instanceParams
  result := none
  txnState := .idle
  current := none
  sweep := ⟨false, 0⟩
  stop := false
  selectedPeer := Config.freePeer 0
  port := .closed
  session := .running
  help := none
  program := []
  events := []
  busLog := []
  reports := []

end Sys2Proof.Machine
end

