-- ==== Sys2Proof/Machine/Operands.lean ====
section
/-! DEFINITION. Operand forms: the key operand, the codes of an entry's direction and peripheral, the Command Table's
two reads, the legal ranges, and the well-formedness of a table and of the parameters (R7, R19 to R24, R31, R32,
R83). -/

namespace Sys2Proof.Machine

/-- The value of a class map at a class. -/
def perClass {α : Type} (m : PerClass α) : McuClass → α
  | .gpio => m.gpio
  | .pwm => m.pwm
  | .frequencyOut => m.frequencyOut
  | .analogChannel => m.analogChannel
  | .status => m.status

/-- TYPE_CODE (R7, R20). -/
def typeCode (p : Params) (c : McuClass) : BitVec 7 := perClass p.typeCode c

/-- N_MAX (R7, R21). -/
def nMax (p : Params) (c : McuClass) : Byte := perClass p.nMax c

/-- DIR_BIT: DIR_WRITE or its complement (R19). -/
def dirBit (p : Params) : Direction → BitVec 1
  | .write => p.dirWrite
  | .read => ~~~ p.dirWrite

/-- DAC_CTRL (R55). -/
def dacCtrlCode (p : Params) : Direction → BitVec 2
  | .write => p.dacCtrlWr
  | .read => p.dacCtrlRd

/-- `is_dac` (R20). -/
def isDac : Peripheral → Bool
  | .mcu _ => false
  | .dac => true

/-- The peer that holds a peripheral's registers (R83). -/
def peerOf : Peripheral → Peer
  | .mcu _ => .mcu
  | .dac => .dac

/-- `peer_addr` (R83). -/
def peerAddr (p : Params) : Peer → Int
  | .mcu => p.mcuAddr
  | .dac => p.dacAddr

/-- `resp_len` (R83). -/
def respLen : Peer → Nat
  | .mcu => Config.mcuRspLen
  | .dac => Config.dacRspLen

/-- `valid_addr` (R21). -/
def validAddr (p : Params) (a : RegisterAddress) : Bool :=
  match a.peripheral with
  | .dac => decide (a.index.toNat ≤ Config.dacIndexMax)
  | .mcu c => decide (a.index.toNat ≤ (nMax p c).toNat)

/-- "XYZ" (R24 (d)). -/
def xyz : List Byte := [0x58, 0x59, 0x5A]

/-- R24: (a) distinct mnemonics, (b) valid targets, (c) lengths, (d) "XYZ" is no mnemonic. -/
abbrev TableWellFormed (p : Params) : Prop :=
  (p.table.map (·.mnemonic)).Nodup ∧
  (∀ e ∈ p.table, validAddr p e.target = true) ∧
  (∀ e ∈ p.table, 1 ≤ e.mnemonic.length ∧ e.mnemonic.length ≤ p.mnemMax ∧ e.label.length ≤ p.labelMax) ∧
  (∀ e ∈ p.table, e.mnemonic ≠ xyz)

/-- The type codes in the document's listing order. -/
def typeCodes (p : Params) : List (BitVec 7) :=
  [p.typeCode.gpio, p.typeCode.pwm, p.typeCode.frequencyOut, p.typeCode.analogChannel, p.typeCode.status]

/-- R7: the constraints on the parameters, the table's among them. -/
abbrev ParamsWellFormed (p : Params) : Prop :=
  TableWellFormed p ∧ 1 ≤ p.mnemMax ∧
  (typeCodes p).Nodup ∧ (∀ c ∈ typeCodes p, c.toNat < Config.nTypes) ∧
  p.dacCtrlWr ≠ p.dacCtrlRd ∧ p.mcuAddr ≠ p.dacAddr

/-- `TableRead` (R31), `none` where it is not defined. -/
def tableRead (p : Params) (pos : Nat) : Option CommandEntry := p.table[pos]?

/-- `find` (R32): the least position whose mnemonic is the key. -/
def find (p : Params) (k : List Byte) : Option Nat := p.table.findIdx? (fun e => e.mnemonic == k)

/-- The `key` and `key_len` ports' shape (R27): `key` is MNEM_MAX bytes, and `key_len` at most that. Their widths depend on
a parameter, so the shape is not in the type; it is kept by every step (`EngineInv` of Safety.lean). The `pos` port has no
bound here: LIST answers every position (R79). -/
abbrev PortsFit (p : Params) (i : InPorts) : Prop := i.key.length = p.mnemMax ∧ i.keyLen ≤ p.mnemMax

/-- The values given for an evaluation, as the ports take them, over what stood there. `key` is MNEM_MAX bytes (R27): bytes given
past those have no place, and places for which none is given keep their byte. A `key_len` above MNEM_MAX does not fit its
port, which keeps its value. Values of the shape `PortsFit` are taken as they are; the rest is the model's choice, log entry
33. -/
def fitPorts (c : Params) (p old : InPorts) : InPorts :=
  { p with
    key := (p.key ++ old.key.drop p.key.length).take c.mnemMax
    keyLen := if p.keyLen ≤ c.mnemMax then p.keyLen else old.keyLen }

/-- The key presented on the ports: the bytes below `key_len` (R27, R77 (d)). On ports that are not of the shape
`PortsFit`, which no step leaves, it is the bytes that are there: the model's choice, log entry 33. -/
def keyOf (i : InPorts) : List Byte := i.key.take i.keyLen

/-- `read_capable` (R98, D18). -/
def readCapable (e : CommandEntry) : Bool := e.direction == .read

/-! Driving the input ports: each form sets `op` to its operation's code (R56; log entry 32) and the ports that operation
reads, and leaves the others. -/

/-- The operation's code alone. -/
def driveOp (c : BitVec 3) (p : InPorts) : InPorts := { p with op := c }

/-- ENC_MCU (op 0) and its four operands. -/
def driveMcu (d : BitVec 1) (t : Byte) (i : Byte) (v : Value) (p : InPorts) : InPorts :=
  { p with op := 0, dir := d, ptype := t, index := i, value := v }

/-- ENC_DAC_WR (op 2, log entry 32) and its three operands. -/
def driveDacWr (i : Byte) (c : BitVec 2) (v : Value) (p : InPorts) : InPorts :=
  { p with op := 2, index := i, ctrl := c, value := v }

/-- ENC_DAC_RD (op 3, log entry 32) and its two operands. -/
def driveDacRd (i : Byte) (c : BitVec 2) (p : InPorts) : InPorts :=
  { p with op := 3, index := i, ctrl := c }

/-- LOOKUP (op 5) and its key operand: `key_len` and the first `key_len` bytes; the ignored bytes after them
keep what was driven before (log entry 11). The caller presents no key longer than MNEM_MAX (R77 (c)). -/
def driveKey (k : List Byte) (p : InPorts) : InPorts :=
  { p with op := 5, keyLen := k.length, key := k ++ p.key.drop k.length }

/-- ENC_CMD (op 7) and its value operand; its key is the one that stands on the ports. -/
def driveValue (v : Value) (p : InPorts) : InPorts := { p with op := 7, value := v }

/-- LIST (op 6) and its operand. -/
def drivePos (n : Nat) (p : InPorts) : InPorts := { p with op := 6, pos := n }

/-- DEC_MCU (op 1) and its four bytes. -/
def driveRx4 (b0 b1 b2 b3 : Byte) (p : InPorts) : InPorts :=
  { p with op := 1, rx0 := b0, rx1 := b1, rx2 := b2, rx3 := b3 }

/-- DEC_DAC (op 4, log entry 32) and its two bytes. -/
def driveRx2 (b0 b1 : Byte) (p : InPorts) : InPorts := { p with op := 4, rx0 := b0, rx1 := b1 }

/-! The host's integers (R97, R106): a number that does not fit its port is rejected before the block is driven. -/

/-- The first of the integers, in the order of the descriptor, that is not between 0 and its bound. -/
def firstMisfit : List (Int × Nat) → Option Int
  | [] => none
  | (n, bound) :: rest => if 0 ≤ n ∧ n ≤ (bound : Int) then firstMisfit rest else some n

/-- The byte of an integer that fits. -/
def byteOf (n : Int) : Byte := BitVec.ofNat 8 n.toNat

/-- The 16-bit value of an integer that fits. -/
def valueOf (n : Int) : Value := BitVec.ofNat 16 n.toNat

/-- The direction bit of an integer that fits. -/
def dirOf (n : Int) : BitVec 1 := BitVec.ofNat 1 n.toNat

/-! `parse_value_argument` (R85). -/

/-- The number a sequence of decimal digits denotes, base 10, unbounded. -/
def decimal (t : List Char) : Nat := t.foldl (fun n c => 10 * n + (c.toNat - '0'.toNat)) 0

/-- One or more decimal digits. -/
def isDigits (t : List Char) : Bool := !t.isEmpty && t.all Char.isDigit

/-- PARSE_VALUE. -/
def parseValue (t : List Char) : Except ParseReason Value :=
  if t.isEmpty then .ok 0
  else if isDigits t then
    if decimal t > Config.valueMax then .error .outOfRange else .ok (BitVec.ofNat 16 (decimal t))
  else match t with
    | '-' :: ds => if isDigits ds then .error .outOfRange else .error .malformed
    | _ => .error .malformed

end Sys2Proof.Machine
end

