-- ==== Sys2Proof/Machine/Flags.lean ====
section
/-! DEFINITION. The block has no flags (R16). What other hardware reports in flags is here the `status` port and the
other output ports (R28), computed from what the operation returned; no later operation reads them. -/

namespace Sys2Proof.Machine

/-- The status code of an error (R57; the numbers are decision D4). -/
def errStatus : Err → BitVec 3
  | .outOfRange _ => 1
  | .notFound _ => 2
  | .parseError _ _ => 3
  | .busError _ => 4

/-- The status code of a result: 0 = OK (R57). -/
def resultStatus : OpResult → BitVec 3
  | .error e => errStatus e
  | .frame _ => 0
  | .value _ => 0
  | .entry _ _ => 0
  | .endOfList => 0
  | .command _ _ _ _ => 0

/-- The names of the status codes (R57). -/
inductive StatusName where
  | ok
  | outOfRange
  | notFound
  | parseError
  | busError
deriving DecidableEq, Repr

/-- What a consumer reads from a status code: 5, 6 and 7 are unassigned, and "a consumer that sees one must
refuse" (U10). -/
def statusName (c : BitVec 3) : Option StatusName :=
  match c.toNat with
  | 0 => some .ok
  | 1 => some .outOfRange
  | 2 => some .notFound
  | 3 => some .parseError
  | 4 => some .busError
  | _ => none

/-- The entry ports `e_*` (R28, D11). `mnem` and `label` hold the bytes below `e_mnem_len` and `e_label_len` only: the bytes
of those ports past them have no value (log entry 22). -/
structure EntryPorts where
  pos      : Nat
  dir      : BitVec 1
  isDac    : BitVec 1
  ptype    : BitVec 7
  index    : Byte
  mnemLen  : Nat
  mnem     : List Byte
  labelLen : Nat
  label    : List Byte
deriving DecidableEq, Repr

/-- The output ports (R28). `none` is a port the operation's rule does not name, or a data output of a status that is
not OK: its value "is unspecified" and the model gives it none (U9, D5; log entry 22). `tx` holds the valid bytes
only. -/
structure OutPorts where
  status : BitVec 3
  tx     : Option Frame
  txLen  : BitVec 3
  rvalue : Option Value
  hit    : Option (BitVec 1)
  entry  : Option EntryPorts
  rspLen : Option (BitVec 3)
deriving DecidableEq, Repr

/-- `e_ptype`: TYPE_CODE for a class, 0 for Dac (R28). -/
def entryPtype (p : Params) : Peripheral → BitVec 7
  | .mcu c => typeCode p c
  | .dac => 0

/-- The entry ports that show an entry (R28). An ill-formed entry, whose mnemonic or label is longer than its port, is shown with
all its bytes and its own length: the model's choice, log entry 22. -/
def entryPorts (p : Params) (pos : Nat) (e : CommandEntry) : EntryPorts where
  pos := pos
  dir := dirBit p e.direction
  isDac := BitVec.ofBool (isDac e.target.peripheral)
  ptype := entryPtype p e.target.peripheral
  index := e.target.index
  mnemLen := e.mnemonic.length
  mnem := e.mnemonic
  labelLen := e.label.length
  label := e.label

/-- `hit` on an error: 0 with NotFound (R77, R82); not named for the others. -/
def errHit : Err → Option (BitVec 1)
  | .notFound _ => some 0
  | .outOfRange _ => none
  | .parseError _ _ => none
  | .busError _ => none

/-- The output ports that show a result (R28). -/
def outPorts (p : Params) (r : OpResult) : OutPorts :=
  match r with
  | .frame f => ⟨0, some f, BitVec.ofNat 3 f.length, none, none, none, none⟩
  | .value v => ⟨0, none, 0, some v, none, none, none⟩
  | .entry pos e => ⟨0, none, 0, none, some 1, some (entryPorts p pos e), none⟩
  | .endOfList => ⟨0, none, 0, none, some 0, none, none⟩
  | .command pos e f n =>
      ⟨0, some f, BitVec.ofNat 3 f.length, none, some 1, some (entryPorts p pos e), some (BitVec.ofNat 3 n)⟩
  | .error e => ⟨errStatus e, none, 0, none, errHit e, none, none⟩

/-- The output ports of the latest evaluation, if there was one. -/
def outPortsOf (s : State) : Option OutPorts := s.result.map (outPorts s.cfg)

end Sys2Proof.Machine
end

