-- ==== Sys2Proof/Machine/Ops.lean ====
section
/-! DEFINITION. The named operations on the state that the meanings and the engine are written with. -/

namespace Sys2Proof.Machine

/-- An operation of the block completes: its caller is returned the result, and nothing else changes ("Flags
written: none. State written: none."; R14). -/
def ret (r : OpResult) (s : State) : State := { s with result := some r }

/-- `raise <Error>`: "the operation completes with the named status and no result; it is a return value, not a trap"
(R11, R114). This is all that taking an error does: no state is saved, no mode changes, control goes nowhere. -/
def raise (e : Err) (s : State) : State := ret (.error e) s

/-- The environment drives the input ports (R27). -/
def drive (f : InPorts → InPorts) (s : State) : State := { s with inp := f s.inp }

/-- The record of bus calls grows by one (S5). -/
def logCall (c : BusCall) (s : State) : State := { s with busLog := s.busLog ++ [c] }

/-- One thing is reported to the user (R110). -/
def report (r : Report) (s : State) : State := { s with reports := s.reports ++ [r] }

/-- The transaction state machine moves (R96). -/
def setTxn (x : TxnState) (s : State) : State := { s with txnState := x }

/-- The transaction in flight changes. -/
def setCurrent (c : Option Txn) (s : State) : State := { s with current := c }

/-- The outside's oldest event has been taken. -/
def setEvents (es : List Event) (s : State) : State := { s with events := es }

/-- The Bus Port's target changes (R87). -/
def setPeer (a : Int) (s : State) : State := { s with selectedPeer := a }

/-- The Bus Port is opened or released (R104, R127). -/
def setPort (p : PortState) (s : State) : State := { s with port := p }

/-- The sweep starts, moves or stops (R98). -/
def setSweep (w : Sweep) (s : State) : State := { s with sweep := w }

/-- The cursor of `H` (R79: the caller holds it). -/
def setHelp (h : Option Nat) (s : State) : State := { s with help := h }

/-- Whether a released port is left behind: only an opened one is released (R104). -/
def releasedPort : PortState → PortState
  | .closed => .closed
  | .opened => .released
  | .released => .released

/-- The session ends: nothing more runs, and the Bus Port is released "on every exit path" (R127). -/
def endSession (e : ExitStatus) (s : State) : State :=
  { s with
    session := .ended e
    port := releasedPort s.port
    current := none
    sweep := ⟨false, s.sweep.pos⟩
    help := none }

/-- Process-level termination: a transaction in flight reaches no terminal state (U13). -/
def terminateSession (s : State) : State :=
  { s with session := .terminated, port := releasedPort s.port }

end Sys2Proof.Machine
end

