-- ==== Sys2Proof/Machine/DacCodec.lean ====
section
/-! DEFINITION. The DAC frame codec: ENC_DAC_WR, ENC_DAC_RD and DEC_DAC (spec/41_dac_codec.md). -/

namespace Sys2Proof.Machine

/-- ENC_DAC_WR of rule R71; bit 2 of byte 0 is 0 (R60). -/
def encDacWr (index : Byte) (ctrl : BitVec 2) (value : Value) : OpResult :=
  if index.toNat > Config.dacIndexMax then .error (.outOfRange index.toNat)
  else .frame [dacByte0 (index.extractLsb' 0 5) 0 ctrl, hiByte value, loByte value]

/-- ENC_DAC_RD of rule R72: the value is not read, and the frame is 1 byte (R72 (a)). -/
def encDacRd (index : Byte) (ctrl : BitVec 2) : OpResult :=
  if index.toNat > Config.dacIndexMax then .error (.outOfRange index.toNat)
  else .frame [dacByte0 (index.extractLsb' 0 5) 0 ctrl]

/-- DEC_DAC of rule R73. -/
def decDac (rx0 rx1 : Byte) : Value := joinBytes rx0 rx1

/-- ENC_DAC_WR on the ports. -/
def encDacWrOp (s : State) : State := ret (encDacWr s.inp.index s.inp.ctrl s.inp.value) s

/-- ENC_DAC_RD on the ports. -/
def encDacRdOp (s : State) : State := ret (encDacRd s.inp.index s.inp.ctrl) s

/-- DEC_DAC on the ports. -/
def decDacOp (s : State) : State := ret (.value (decDac s.inp.rx0 s.inp.rx1)) s

/-- op 2. -/
def execEncDacWr (s : State) : Host.Outcome State Fault Refusal := .next (encDacWrOp s)

/-- op 3. -/
def execEncDacRd (s : State) : Host.Outcome State Fault Refusal := .next (encDacRdOp s)

/-- op 4. -/
def execDecDac (s : State) : Host.Outcome State Fault Refusal := .next (decDacOp s)

end Sys2Proof.Machine
end

