-- ==== Sys2Proof/Machine/McuCodec.lean ====
section
/-! DEFINITION. The microcontroller frame codec: ENC_MCU and DEC_MCU (spec/40_mcu_codec.md). -/

namespace Sys2Proof.Machine

/-- ENC_MCU of rule R67. The index is not checked, and the value is carried for both directions (R67 (a), (c)). -/
def encMcu (dir : BitVec 1) (ptype index : Byte) (value : Value) : OpResult :=
  if ptype.toNat > Config.typeMax then .error (.outOfRange ptype.toNat)
  else .frame [mcuByte0 dir (ptype.extractLsb' 0 7), index, hiByte value, loByte value]

/-- DEC_MCU of rule R68: bytes 0 and 1 are not interpreted (R61). -/
def decMcu (rx2 rx3 : Byte) : Value := joinBytes rx2 rx3

/-- ENC_MCU on the ports. -/
def encMcuOp (s : State) : State := ret (encMcu s.inp.dir s.inp.ptype s.inp.index s.inp.value) s

/-- DEC_MCU on the ports. -/
def decMcuOp (s : State) : State := ret (.value (decMcu s.inp.rx2 s.inp.rx3)) s

/-- op 0. -/
def execEncMcu (s : State) : Host.Outcome State Fault Refusal := .next (encMcuOp s)

/-- op 1. -/
def execDecMcu (s : State) : Host.Outcome State Fault Refusal := .next (decMcuOp s)

end Sys2Proof.Machine
end

