-- ==== Sys2Proof/Machine/CommandTable.lean ====
section
/-! DEFINITION. The Command Table operations: LOOKUP, LIST and ENC_CMD (spec/42_command_table.md). -/

namespace Sys2Proof.Machine

/-- LOOKUP of rule R77. -/
def lookup (p : Params) (k : List Byte) : OpResult :=
  match find p k with
  | none => .error (.notFound k)
  | some pos =>
      match tableRead p pos with
      | some e => .entry pos e
      | none => .error (.notFound k)

/-- LIST of rule R79: past the end is not an error. -/
def listAt (p : Params) (pos : Nat) : OpResult :=
  match tableRead p pos with
  | some e => .entry pos e
  | none => .endOfList

/-- `encode_entry` of rule R81. -/
def encodeEntry (p : Params) (e : CommandEntry) (value : Value) : OpResult :=
  match e.target.peripheral with
  | .dac =>
      match e.direction with
      | .write => encDacWr e.target.index (dacCtrlCode p .write) value
      | .read => encDacRd e.target.index (dacCtrlCode p .read)
  | .mcu c => encMcu (dirBit p e.direction) ((typeCode p c).setWidth 8) e.target.index value

/-- ENC_CMD of rule R82: NotFound is decided first; OutOfRange records the entry's index. -/
def encCmd (p : Params) (k : List Byte) (value : Value) : OpResult :=
  match lookup p k with
  | .entry pos e =>
      match encodeEntry p e value with
      | .frame f => .command pos e f (respLen (peerOf e.target.peripheral))
      | _ => .error (.outOfRange e.target.index.toNat)
  | _ => .error (.notFound k)

/-- LOOKUP on the ports. -/
def lookupOp (s : State) : State := ret (lookup s.cfg (keyOf s.inp)) s

/-- LIST on the ports. -/
def listOp (s : State) : State := ret (listAt s.cfg s.inp.pos) s

/-- ENC_CMD on the ports. -/
def encCmdOp (s : State) : State := ret (encCmd s.cfg (keyOf s.inp) s.inp.value) s

/-- op 5. -/
def execLookup (s : State) : Host.Outcome State Fault Refusal := .next (lookupOp s)

/-- op 6. -/
def execList (s : State) : Host.Outcome State Fault Refusal := .next (listOp s)

/-- op 7. -/
def execEncCmd (s : State) : Host.Outcome State Fault Refusal := .next (encCmdOp s)

end Sys2Proof.Machine
end

