-- ==== Sys2Proof/Machine/Engine.lean ====
section
/-! DEFINITION. The Transaction Engine (spec/43_transaction_engine.md): how a transaction begins, each of its bus
calls, and what its end leads to. The state machine is rule R96's table. -/

namespace Sys2Proof.Machine

/-- The sweep goes on to the next position, or returns if a stop was requested and it looks here (R98, R99). -/
def sweepAdvance (s : State) : State :=
  if s.stop = true ∧ s.cfg.stopCheck = .perEntry then setSweep ⟨false, s.sweep.pos⟩ s
  else setSweep ⟨true, s.sweep.pos + 1⟩ s

/-- The sweep's wait after a polled entry, SWEEP_PERIOD / T, and then the next position (R98's pseudocode and decision D25, after
a failed entry too; R101). The wait, and the look at the stop request after it, are part of the step that ends the entry,
so no request is noted between them: the model's choice, log entry 36. -/
def sweepAfterEntry (s : State) : State :=
  sweepAdvance (logCall (.delay Config.sweepPeriod s.cfg.table.length) s)

/-- What a transaction's end leads to (R94, R100, R66): outside the sweep a bus error ends the session; the one-shot
mode ends it either way; the sweep goes on. -/
def afterTxn (who : Caller) (ok : Bool) (s : State) : State :=
  match who with
  | .direct => if ok then s else endSession .failure s
  | .line => if ok then s else endSession .failure s
  | .oneShot => if ok then endSession .success s else endSession .failure s
  | .sweep _ _ => sweepAfterEntry s

/-- Settled or ReadComplete to Decoded: the value goes to the caller (R93). -/
def finishTxn (t : Txn) (v : Value) (s : State) : State :=
  afterTxn t.who true (report (.value t.who v) (setCurrent none (setTxn .decoded s)))

/-- A bus call failed: the transaction is in Failed and abandoned, without retry (R94, R109). -/
def failTxn (t : Txn) (stage : BusStage) (s : State) : State :=
  afterTxn t.who false (report (.failure t.who (.busError stage)) (setCurrent none (setTxn .failed s)))

/-- A request rejected before any bus call (R105, R113): reported, no transaction attempted, and no transition to Failed (R96). It
ends the one-shot process (log entry 14) and, in the sweep, the entry. The transaction state is not touched here: an earlier
transaction's Decoded or Failed stays, unless the block's OutOfRange has put a new machine at Idle (`launch`): the model's
choice, log entry 35. -/
def reject (who : Caller) (e : Err) (s : State) : State :=
  match who with
  | .direct => report (.failure who e) s
  | .line => report (.failure who e) s
  | .oneShot => endSession Config.oneShotRejectExit (report (.failure who e) s)
  | .sweep _ _ => sweepAfterEntry (report (.failure who e) s)

/-- A transaction with this request frame is in flight, at Idle (R95, D29). -/
def beginTxn (peer : Peer) (f : Frame) (who : Caller) (s : State) : State :=
  setCurrent (some ⟨peer, f, who⟩) (setTxn .idle s)

/-- Step 2 has just been evaluated on the ports (R89): a frame begins the transaction; OutOfRange leaves it at Idle,
not attempted (R96). -/
def launch (peer : Peer) (who : Caller) (s : State) : State :=
  match s.result with
  | some (.frame f) => beginTxn peer f who s
  | some (.command _ _ f _) => beginTxn peer f who s
  | some (.error e) => reject who e (setTxn .idle s)
  | some (.value _) => s
  | some (.entry _ _) => s
  | some .endOfList => s
  | none => s

/-- The transport is opened and configured, at the session's start-up, before any operation of the block is used for a
transaction; a failure is reported and ends the session with a non-zero exit code (R127; log entries 10 and 29). No answer
yet: the call blocks (R103). -/
def openStep (s : State) : Host.Outcome State Fault Refusal :=
  match s.events with
  | [] => .next s
  | .opened true :: es => .next (setPort .opened (setEvents es s))
  | .opened false :: es => .next (endSession .failure (report .openFailed (setEvents es s)))
  | _ => .refused .strayCompletion

/-- Step 1, select (R88). -/
def selectStep (t : Txn) (s : State) : Host.Outcome State Fault Refusal :=
  match s.events with
  | [] => .next s
  | .selected true :: es =>
      .next (setTxn .peerSelected (setPeer (peerAddr s.cfg t.peer)
        (logCall (.selectPeer (peerAddr s.cfg t.peer) true) (setEvents es s))))
  | .selected false :: es =>
      .next (failTxn t .select (setPeer (Config.freePeer (s.busLog.length + 1))
        (logCall (.selectPeer (peerAddr s.cfg t.peer) false) (setEvents es s))))
  | _ => .refused .strayCompletion

/-- Step 3, write (R90): the whole frame in one call; a short write fails the transaction. -/
def writeStep (t : Txn) (s : State) : Host.Outcome State Fault Refusal :=
  match s.events with
  | [] => .next s
  | .written none :: es =>
      .next (failTxn t .write (logCall (.write s.selectedPeer t.frame none) (setEvents es s)))
  | .written (some w) :: es =>
      if w > t.frame.length then .refused .overReport
      else if w = t.frame.length then
        .next (setTxn .written (logCall (.write s.selectedPeer t.frame (some w)) (setEvents es s)))
      else .next (failTxn t .write (logCall (.write s.selectedPeer t.frame (some w)) (setEvents es s)))
  | _ => .refused .strayCompletion

/-- Step 4, settle (R91): unconditional, and nothing can fail here (R96). -/
def settleStep (s : State) : State := setTxn .settled (logCall (.delay Config.tSettle 1) s)

/-- Step 5 returned all the bytes asked for, as a response frame of this peer (R92): if a transaction awaits exactly
that, its read is complete. -/
def receiveFrame (peer : Peer) (bytes : Frame) (s : State) : State :=
  match s.current with
  | none => s
  | some t =>
      if s.session = .running ∧ t.peer = peer ∧ s.txnState = .settled then
        setTxn .readComplete (logCall (.read s.selectedPeer bytes.length (some bytes)) s)
      else s

/-- Step 5 failed or was short (R92): nothing is decoded. -/
def failRead (t : Txn) (got : Option (List Byte)) (s : State) : State :=
  failTxn t .read (logCall (.read s.selectedPeer (respLen t.peer) got) s)

/-- Step 6, decode (R93, `decode` of R83): cannot fail. -/
def decodeStep (t : Txn) (s : State) : State :=
  match t.peer with
  | .mcu => finishTxn t (decMcu s.inp.rx2 s.inp.rx3) (decMcuOp (drive (driveOp 1) s))
  | .dac => finishTxn t (decDac s.inp.rx0 s.inp.rx1) (decDacOp (drive (driveOp 4) s))

end Sys2Proof.Machine
end

