-- ==== Sys2Proof/Machine/Frames.lean ====
section
/-! DEFINITION. The frame rows as instructions (spec/30_encoding.md R46 to R51). A request frame is the transaction that
sends it: the explicit-descriptor path of R97, with the operands R70 and R75 recover from the frame. A response frame is
its reception: the bytes stand on `rx` and are decoded (R68, R73), and if the engine is waiting for exactly this
frame its read is complete (R92). Log entry 3. -/

namespace Sys2Proof.Machine

/-- Send a request frame: its operands are on the ports, `op` encodes them (R89), and the transaction begins. At most
one transaction is in flight (R102, U7), none before the Bus Port is opened and none after it is released (R104,
R127). -/
def sendRequest (peer : Peer) (op : State → State) (s : State) : Host.Outcome State Fault Refusal :=
  match s.session with
  | .ended _ => .refused .sessionEnded
  | .terminated => .refused .sessionEnded
  | .running =>
      match s.current with
      | some _ => .refused .transactionInFlight
      | none =>
          match s.port with
          | .opened => .next (launch peer .direct (op s))
          | .closed => .refused .portNotOpen
          | .released => .refused .portNotOpen

/-- MCU_REQ. -/
def execMcuReq (d : BitVec 1) (t : BitVec 7) (i : Byte) (v : Value) (s : State) :
    Host.Outcome State Fault Refusal :=
  sendRequest .mcu encMcuOp (drive (driveMcu d (t.setWidth 8) i v) s)

/-- MCU_RSP. -/
def execMcuRsp (p0 p1 : Byte) (v : Value) (s : State) : Host.Outcome State Fault Refusal :=
  .next (receiveFrame .mcu [p0, p1, hiByte v, loByte v]
    (decMcuOp (drive (driveRx4 p0 p1 (hiByte v) (loByte v)) s)))

/-- DAC_WR. A frame with the reserved bit set has no meaning (U2). -/
def execDacWr (r : BitVec 5) (z : BitVec 1) (c : BitVec 2) (v : Value) (s : State) :
    Host.Outcome State Fault Refusal :=
  if z = 0 then sendRequest .dac encDacWrOp (drive (driveDacWr (r.setWidth 8) c v) s)
  else .refused .reservedBitSet

/-- DAC_RD. A frame with the reserved bit set has no meaning (U2). -/
def execDacRd (r : BitVec 5) (z : BitVec 1) (c : BitVec 2) (s : State) :
    Host.Outcome State Fault Refusal :=
  if z = 0 then sendRequest .dac encDacRdOp (drive (driveDacRd (r.setWidth 8) c) s)
  else .refused .reservedBitSet

/-- DAC_RSP. -/
def execDacRsp (v : Value) (s : State) : Host.Outcome State Fault Refusal :=
  .next (receiveFrame .dac [hiByte v, loByte v]
    (decDacOp (drive (driveRx2 (hiByte v) (loByte v)) s)))

end Sys2Proof.Machine
end

