-- ==== Sys2Proof/Machine/Dispatch.lean ====
section
/-! DEFINITION. Which meaning each instruction has: one arm per row of spec/opcode_table.json. -/

namespace Sys2Proof.Machine

def exec (i : Instr) (s : State) : Host.Outcome State Fault Refusal :=
  match i with
  | .encMcu => Sys2Proof.Machine.execEncMcu s
  | .decMcu => Sys2Proof.Machine.execDecMcu s
  | .encDacWr => Sys2Proof.Machine.execEncDacWr s
  | .encDacRd => Sys2Proof.Machine.execEncDacRd s
  | .decDac => Sys2Proof.Machine.execDecDac s
  | .lookup => Sys2Proof.Machine.execLookup s
  | .list => Sys2Proof.Machine.execList s
  | .encCmd => Sys2Proof.Machine.execEncCmd s
  | .mcuReq d t x v => Sys2Proof.Machine.execMcuReq d t x v s
  | .mcuRsp p0 p1 v => Sys2Proof.Machine.execMcuRsp p0 p1 v s
  | .dacWr r z c v => Sys2Proof.Machine.execDacWr r z c v s
  | .dacRd r z c => Sys2Proof.Machine.execDacRd r z c s
  | .dacRsp v => Sys2Proof.Machine.execDacRsp v s

end Sys2Proof.Machine
end

