-- ==== Sys2Proof/Machine/Lines.lean ====
section
/-! DEFINITION. The caller's own procedures: command lines (R65), the one-shot mode (R66), the enumeration of `H` and the poll
sweep (R98 to R101). Each uses the block through its ports. -/

namespace Sys2Proof.Machine

/-- `<mnemonic> [value]`: NotFound, then ParseError, then OutOfRange (R113); a key longer than MNEM_MAX cannot be
presented, and the host reports NotFound without the block (R77 (c)). -/
def lineCommand (k : List Byte) (tok : List Char) (s : State) : State :=
  if k.length > s.cfg.mnemMax then reject .line (.notFound k) s
  else
    let s1 := lookupOp (drive (driveKey k) s)
    match lookup s.cfg k with
    | .entry _ e =>
        match parseValue tok with
        | .ok v => launch (peerOf e.target.peripheral) .line (encCmdOp (drive (driveValue v) s1))
        | .error r => reject .line (.parseError r tok) s1
    | _ => reject .line (.notFound k) s1

/-- `W <index> <value>` (R97); log entry 12. -/
def lineDacWrite (index value : Int) (s : State) : State :=
  match firstMisfit [(index, Config.mcuIndexMax), (value, Config.valueMax)] with
  | some n => reject .line (.outOfRange n) s
  | none =>
      launch .dac .line
        (encDacWrOp (drive (driveDacWr (byteOf index) (dacCtrlCode s.cfg .write) (valueOf value)) s))

/-- `R <index>` (R97). -/
def lineDacRead (index : Int) (s : State) : State :=
  match firstMisfit [(index, Config.mcuIndexMax)] with
  | some n => reject .line (.outOfRange n) s
  | none => launch .dac .line (encDacRdOp (drive (driveDacRd (byteOf index) (dacCtrlCode s.cfg .read)) s))

/-- A line of the interactive mode (R65). -/
def lineStep (l : Line) (s : State) : State :=
  match l with
  | .help => setHelp (some 0) s
  | .quit => endSession .success s
  | .command k tok => lineCommand k tok s
  | .dacWrite i v => lineDacWrite i v s
  | .dacRead i => lineDacRead i s

/-- The one-shot mode: the four integers are the operands of ENC_MCU (R66, R97). -/
def oneShotStep (direction ptype index value : Int) (s : State) : State :=
  match firstMisfit [(direction, 1), (ptype, 255), (index, Config.mcuIndexMax), (value, Config.valueMax)] with
  | some n => reject .oneShot (.outOfRange n) s
  | none =>
      launch .mcu .oneShot
        (encMcuOp (drive (driveMcu (dirOf direction) (byteOf ptype) (byteOf index) (valueOf value)) s))

/-- `H` presents LIST with pos 0, 1, ... until `hit` = 0, and prints each entry (R65, R79). -/
def helpStep (n : Nat) (s : State) : State :=
  let s1 := listOp (drive (drivePos n) s)
  match tableRead s.cfg n with
  | some e => setHelp (some (n + 1)) (report (.listed n e) s1)
  | none => setHelp none s1

/-- `encode_entry` on the block's ports (R81, R89). -/
def encodeEntryOp (e : CommandEntry) (value : Value) (s : State) : State :=
  match e.target.peripheral with
  | .dac =>
      match e.direction with
      | .write => encDacWrOp (drive (driveDacWr e.target.index (dacCtrlCode s.cfg .write) value) s)
      | .read => encDacRdOp (drive (driveDacRd e.target.index (dacCtrlCode s.cfg .read)) s)
  | .mcu c =>
      encMcuOp (drive (driveMcu (dirBit s.cfg e.direction) ((typeCode s.cfg c).setWidth 8) e.target.index value) s)

/-- One position of the sweep: a read-capable entry is polled with value 0, any other is passed over; past the last
position the pass is over, and the sweep returns if a stop was requested, else begins again at 0 (R98, R99). -/
def sweepStep (s : State) : State :=
  match tableRead s.cfg s.sweep.pos with
  | some e =>
      let s1 := listOp (drive (drivePos s.sweep.pos) s)
      if readCapable e then
        launch (peerOf e.target.peripheral) (.sweep s.sweep.pos e) (encodeEntryOp e 0 s1)
      else sweepAdvance s1
  | none =>
      if s.stop then setSweep ⟨false, s.sweep.pos⟩ s else setSweep ⟨true, 0⟩ s

end Sys2Proof.Machine
end

