-- ==== Sys2Proof/Machine/Run.lean ====
section
/-! DEFINITION. One step of the whole machine: which of the environment's procedures moves, and the two places at which
a word is fetched, decoded and executed (the caller's next command, and the bytes a read returned). -/

namespace Sys2Proof.Machine

/-- A word is decoded on its interface and executed. -/
def execWord (ch : Channel) (bytes : List Byte) (s : State) : Host.Outcome State Fault Refusal :=
  match decode ch bytes with
  | .ok i => exec i s
  | .error e => .refused (.undecodable e)

/-- The interface of a peer's response frames. -/
def responseChannel : Peer → Channel
  | .mcu => .mcuToHost
  | .dac => .dacToHost

/-- Step 5, read (R92): one call for `resp_len` bytes. All of them are a response frame, which is executed; fewer, or
BusError, fail the transaction. -/
def readStep (t : Txn) (s : State) : Host.Outcome State Fault Refusal :=
  match s.events with
  | [] => .next s
  | .received none :: es => .next (failRead t none (setEvents es s))
  | .received (some bs) :: es =>
      if bs.length > respLen t.peer then .refused .overReport
      else if bs.length = respLen t.peer then execWord (responseChannel t.peer) bs (setEvents es s)
      else .next (failRead t (some bs) (setEvents es s))
  | _ => .refused .strayCompletion

/-- One transition of the transaction in flight (R96). The two terminal states have none in flight. -/
def engineStep (t : Txn) (s : State) : Host.Outcome State Fault Refusal :=
  match s.txnState with
  | .idle => selectStep t s
  | .peerSelected => writeStep t s
  | .written => .next (settleStep s)
  | .settled => readStep t s
  | .readComplete => .next (decodeStep t s)
  | .decoded => .next (setCurrent none s)
  | .failed => .next (setCurrent none s)

/-- Presenting a word: a byte on the `op` port drives it; a frame stands on the bus and drives no port by itself. -/
def presentWord (ch : Channel) (bytes : List Byte) (s : State) : State :=
  match ch, bytes with
  | .opPort, [b] => drive (driveOp (b.extractLsb' 0 3)) s
  | _, _ => s

/-- LOOKUP and ENC_CMD read the key (R27). -/
def readsKey (op : BitVec 3) : Bool := op == 5 || op == 7

/-- The caller's next command. For a direct evaluation, LOOKUP or ENC_CMD of a key longer than MNEM_MAX "cannot be presented on
the port; the host reports it as NotFound without consulting the block" (R77 (c)); any other evaluation is made, on the
ports as `fitPorts` has them, and its error is returned to its caller in `result` (R114) and not reported besides: log entry 34. -/
def commandStep (c : Command) (s : State) : Host.Outcome State Fault Refusal :=
  match c with
  | .eval p =>
      if readsKey p.op = true ∧ s.cfg.mnemMax < p.keyLen then
        .next (reject .direct (.notFound (p.key.take p.keyLen)) s)
      else execWord .opPort [p.op.setWidth 8] (drive (fitPorts s.cfg p) s)
  | .word ch bytes => execWord ch bytes (presentWord ch bytes s)
  | .line l => .next (lineStep l s)
  | .oneShot d t i v => .next (oneShotStep d t i v s)
  | .sweep => .next (setSweep ⟨true, 0⟩ s)

/-- Whether a command belongs to the session on the bus, which begins with the Bus Port opened: "table constant, Bus Port
opened, then transactions" (R127). An evaluation of the block and a response frame need no port (R123). -/
def needsPort : Command → Bool
  | .eval _ => false
  | .word .opPort _ => false
  | .word .hostToMcu _ => true
  | .word .mcuToHost _ => false
  | .word .hostToDac _ => true
  | .word .dacToHost _ => false
  | .line _ => true
  | .oneShot _ _ _ _ => true
  | .sweep => true

/-- The caller, when no request from outside is pending: a transaction in flight blocks everything else (R42); then the
sweep, then `H`, then the stop request (R112), then the next command, for which the Bus Port is opened first if the session needs
it and has not done so (R127); with no command, nothing happens. -/
def callerStep (s : State) : Host.Outcome State Fault Refusal :=
  match s.current with
  | some t => engineStep t s
  | none =>
      if s.sweep.active then .next (sweepStep s)
      else match s.help with
        | some n => .next (helpStep n s)
        | none =>
            if s.stop then .next (endSession .success s)
            else match s.program with
              | [] => .next s
              | c :: cs =>
                  if needsPort c = true ∧ s.port ≠ .opened then openStep s
                  else commandStep c { s with program := cs }

/-- One step. A session that is over does nothing. A stop request is noted when it arrives and takes effect where the
caller looks at it, "never mid-transaction" (R99); termination takes effect at once (U13). -/
def machineStep (s : State) : Host.Outcome State Fault Refusal :=
  match s.session with
  | .ended _ => .next s
  | .terminated => .next s
  | .running =>
      match s.events with
      | .stopRequest :: es => .next { s with events := es, stop := true }
      | .terminate :: es => .next (terminateSession (setEvents es s))
      | _ => callerStep s

/-- The command by which a word of an opcode-table row is presented: an operation's code on the `op` port with the
other ports as they are, a frame on its interface. -/
def fetchCommand (nbits w : Nat) : Command :=
  match tableWord nbits w with
  | some (ch, bytes) => .word ch bytes
  | none => .word .opPort []

/-- The requests from outside that a step would take before it looks at the next command. -/
def isOutsideRequest : Event → Bool
  | .stopRequest => true
  | .terminate => true
  | .opened _ => false
  | .selected _ => false
  | .written _ => false
  | .received _ => false

end Sys2Proof.Machine
end

