-- ==== Sys2Proof/Machine/Step.lean ====
section
/-! DEFINITION. The step, and where the next instruction is fetched from. -/

namespace Sys2Proof.Machine

/-- One step of the machine (Machine/Run.lean). -/
def step (s : State) : Host.Outcome State Fault Refusal := machineStep s

/-- `s` with an opcode-table row's word as the caller's next command, and nothing that a step would do before it: the
session running, its Bus Port opened where the word is a request frame, no transaction in flight, no sweep, no enumeration, no
request from outside (log entry 21). -/
def State.withFetchWord (s : State) (nbits w : Nat) : State :=
  { s with
    session := .running
    port := if needsPort (fetchCommand nbits w) then .opened else s.port
    current := none
    sweep := ⟨false, s.sweep.pos⟩
    help := none
    stop := false
    events := s.events.dropWhile isOutsideRequest
    program := fetchCommand nbits w :: s.program }

end Sys2Proof.Machine
end

