-- ==== Sys2Proof/Safety.lean ====
section
/-! DEFINITION. What the claims speak of: when the caller is ready to fetch, the order of the bus calls, and the invariant of
the transaction engine. -/

namespace Sys2Proof.Machine

/-- The next step fetches the caller's next command: the session runs, no request from outside is pending, and nothing
is under way. -/
structure Ready (s : State) : Prop where
  running   : s.session = .running
  noRequest : ∀ e es, s.events = e :: es → isOutsideRequest e = false
  noTxn     : s.current = none
  noSweep   : s.sweep.active = false
  noHelp    : s.help = none
  noStop    : s.stop = false

/-- The next step fetches a command of the session on the bus: the caller is ready and the Bus Port has been opened
(R127). -/
structure SessionReady (s : State) : Prop extends Ready s where
  portOpen : s.port = .opened

/-- A request may be sent: the session runs, the Bus Port is opened and no transaction is in flight (R102, R104). -/
structure CanSend (s : State) : Prop where
  running  : s.session = .running
  noTxn    : s.current = none
  portOpen : s.port = .opened

/-- The shapes of a peer's request frames (R25, R60): 4 bytes for the microcontroller; 3 or 1 for the DAC, with the
reserved bit of byte 0 clear. -/
def frameOk : Peer → Frame → Bool
  | .mcu, f => f.length == Config.mcuReqLen
  | .dac, f =>
      (f.length == Config.dacWrLen || f.length == Config.dacRdLen) &&
        (match f with
         | [] => false
         | b :: _ => dacReserved b == 0)

/-- Where a record of bus calls stands in the order of R93 and R128. `a` is the peer address of the transaction. -/
inductive BusPhase where
  | free
  | selected (a : Int)
  | written (a : Int)
  | settled (a : Int)
  | broken
deriving DecidableEq, Repr

/-- One more bus call: the order is select_peer, write, the 25 ms delay, read, each to the peer that was selected
(R128, R130); a failed or short call ends the transaction (R94); between transactions only other waits stand. -/
def busNext : BusPhase → BusCall → BusPhase
  | .free, .selectPeer a ok => if ok then .selected a else .free
  | .free, .delay _ _ => .free
  | .selected a, .write p f w =>
      if p = a then
        match w with
        | none => .free
        | some n => if n = f.length then .written a else if n < f.length then .free else .broken
      else .broken
  | .written a, .delay ms parts => if ms = Config.tSettle ∧ parts = 1 then .settled a else .broken
  | .settled a, .read p n got =>
      if p = a then
        match got with
        | none => .free
        | some bs => if bs.length ≤ n then .free else .broken
      else .broken
  | _, _ => .broken

/-- Where the whole record stands. -/
def busPhase (log : List BusCall) : BusPhase := log.foldl busNext .free

/-- Where the record must stand for a transaction in this state, to this peer address (R96's last column). -/
def phaseOf (a : Int) : TxnState → BusPhase
  | .idle => .free
  | .peerSelected => .selected a
  | .written => .written a
  | .settled => .settled a
  | .readComplete => .free
  | .decoded => .free
  | .failed => .free

/-- The two terminal states of R95. -/
def isTerminal : TxnState → Bool
  | .idle => false
  | .peerSelected => false
  | .written => false
  | .settled => false
  | .readComplete => false
  | .decoded => true
  | .failed => true

/-- The invariant of a transaction in flight: its state is not terminal, its frame has its peer's shape, the record of bus
calls stands where the state says, once a peer is selected it is this transaction's (R130), and the Bus Port is opened
(R104, R127). -/
structure TxnInv (s : State) (t : Txn) : Prop where
  live  : isTerminal s.txnState = false
  shape : frameOk t.peer t.frame = true
  order : busPhase s.busLog = phaseOf (peerAddr s.cfg t.peer) s.txnState
  peer  : s.txnState ≠ .idle → s.selectedPeer = peerAddr s.cfg t.peer
  port  : s.session = .running → s.port = .opened

/-- The invariant of the engine and of its ports. With no transaction in flight the machine stands at Idle or a terminal
state, and the record holds whole transactions only; a sweep runs only with the Bus Port opened (R127); the key ports have
the shape R27 gives them. -/
structure EngineInv (s : State) : Prop where
  none_inflight : s.current = none →
    busPhase s.busLog = .free ∧ (s.txnState = .idle ∨ isTerminal s.txnState = true)
  inflight : ∀ t, s.current = some t → TxnInv s t
  sweeping : s.session = .running → s.sweep.active = true → s.port = .opened
  ports    : PortsFit s.cfg s.inp

/-! What a failed transaction leaves (R94, R100), in a running session. -/

/-- Where the sweep stands after an entry: at the next position, unless a stop was requested and it is looked at here
(R99); then the sweep has returned, its cursor as it was (log entry 16). -/
def sweepNext (s : State) : Sweep :=
  if s.stop = true ∧ s.cfg.stopCheck = .perEntry then ⟨false, s.sweep.pos⟩ else ⟨true, s.sweep.pos + 1⟩

/-- Outside the sweep: Failed, nothing in flight, the failing call the last on record, the error reported, the session over
and the Bus Port released. -/
def failedOutside (t : Txn) (stage : BusStage) (c : BusCall) (es : List Event) (s : State) : State :=
  { s with
    events := es
    txnState := .failed
    current := none
    busLog := s.busLog ++ [c]
    reports := s.reports ++ [.failure t.who (.busError stage)]
    session := .ended .failure
    port := releasedPort s.port
    sweep := ⟨false, s.sweep.pos⟩
    help := none }

/-- Inside the sweep: Failed, nothing in flight, the failing call the last of this transaction, after it the wait that R98's
pseudocode and decision D25 put after every polled entry, the error reported, and the sweep where it goes next. -/
def failedInSweep (t : Txn) (stage : BusStage) (c : BusCall) (es : List Event) (s : State) : State :=
  { s with
    events := es
    txnState := .failed
    current := none
    busLog := s.busLog ++ [c, .delay Config.sweepPeriod s.cfg.table.length]
    reports := s.reports ++ [.failure t.who (.busError stage)]
    sweep := sweepNext s }

/-- The output ports show an entry (R28, D11): status OK, `hit` 1, and the entry's fields on the `e_*` ports. -/
structure ShowsEntry (p : Params) (o : OutPorts) (x : EntryPorts) (pos : Nat) (e : CommandEntry) : Prop where
  ok       : o.status = 0
  hit      : o.hit = some 1
  noValue  : o.rvalue = none
  shown    : o.entry = some x
  ePos     : x.pos = pos
  eDir     : x.dir = if e.direction = .write then p.dirWrite else ~~~ p.dirWrite
  eDac     : e.target.peripheral = .dac → x.isDac = 1 ∧ x.ptype = 0
  eClass   : ∀ c, e.target.peripheral = .mcu c → x.isDac = 0 ∧ x.ptype = typeCode p c
  eIndex   : x.index = e.target.index
  eMnem    : x.mnemLen = e.mnemonic.length ∧ x.mnem = e.mnemonic
  eLabel   : x.labelLen = e.label.length ∧ x.label = e.label

end Sys2Proof.Machine
end

