-- ==== Sys2Proof/Certificates/Slice0/Obligations.lean ====
section
/-! DEFINITION. The statements for the provers. Each says which rules of the spec it formalises; where it rests on a decision
of the spec or a choice of the model, it says so. -/

open Sys2Proof Sys2Proof.Machine

/-! ## Encoding -/

/-- R46 to R56: decoding the word of a well-formed instruction gives it back, for every instruction and every operand. The op
codes are the spec's decision D3 and the DAC bit positions D6. -/
def Obligations.DecodeOfEncodeIsIdentity : Prop :=
  ∀ i : Instr, i.WellFormed → decode (encode i).1 (encode i).2 = .ok i

/-- R46 to R56, R70, R75: a word that decodes is exactly the encoding of the well-formed instruction it decodes to, so no
bit of it is dropped. D3 and D6 as above. -/
def Obligations.EncodeOfDecodeIsIdentity : Prop :=
  ∀ (ch : Channel) (bytes : List Byte) (i : Instr),
    decode ch bytes = .ok i → i.WellFormed ∧ encode i = (ch, bytes)

/-- Words written out from the encodings of R47 to R51 and R56 (op codes by D3; 0x81011234, 0x29BEEF and 0x2A are the worked
examples of R67, R71, R72). That an 8-bit word below 8 is an op code is the model's choice, log entry 20. -/
def Obligations.WrittenOutWordsDecode : Prop :=
  decodeTableWord 8 0 = some .encMcu ∧ decodeTableWord 8 1 = some .decMcu ∧
  decodeTableWord 8 2 = some .encDacWr ∧ decodeTableWord 8 3 = some .encDacRd ∧
  decodeTableWord 8 4 = some .decDac ∧ decodeTableWord 8 5 = some .lookup ∧
  decodeTableWord 8 6 = some .list ∧ decodeTableWord 8 7 = some .encCmd ∧
  decodeTableWord 32 0x81011234 = some (.mcuReq 1 1 1 0x1234) ∧
  decodeTableWord 24 0x29BEEF = some (.dacWr 5 0 0b01 0xBEEF) ∧
  decodeTableWord 8 0x2A = some (.dacRd 5 0 0b10) ∧
  decodeTableWord 16 0xBEEF = some (.dacRsp 0xBEEF) ∧
  decode .mcuToHost [0x5A, 0xA5, 0x12, 0x34] = .ok (.mcuRsp 0x5A 0xA5 0x1234)

/-- R47: direction in bit 7, type in bits 6:0, the raw index, the value high byte first; and every 4-byte pattern is a
well-formed frame. -/
def Obligations.McuRequestLayout : Prop :=
  (∀ (d : BitVec 1) (t : BitVec 7) (i : Byte) (v : Value), ∃ b0 b2 b3 : Byte,
    encode (.mcuReq d t i v) = (.hostToMcu, [b0, i, b2, b3]) ∧
    b0.getLsbD 7 = d.getLsbD 0 ∧ (∀ k < 7, b0.getLsbD k = t.getLsbD k) ∧
    (∀ k < 8, b2.getLsbD k = v.getLsbD (k + 8)) ∧ (∀ k < 8, b3.getLsbD k = v.getLsbD k)) ∧
  (∀ b0 b1 b2 b3 : Byte, ∃ (d : BitVec 1) (t : BitVec 7) (i : Byte) (v : Value),
    decode .hostToMcu [b0, b1, b2, b3] = .ok (.mcuReq d t i v) ∧
    encode (.mcuReq d t i v) = (.hostToMcu, [b0, b1, b2, b3]))

/-- R60, U2 (decision D6 places the reserved bit): a DAC request with the reserved bit set is no instruction: the decoder
rejects both formats by name, and their meanings refuse it in every state. -/
def Obligations.ReservedBitRefused : Prop :=
  ∀ (r : BitVec 5) (c : BitVec 2) (v : Value) (s : State),
    (∃ b, decode .hostToDac (encode (.dacWr r 1 c v)).2 = .error (.reservedBit b)) ∧
    (∃ b, decode .hostToDac (encode (.dacRd r 1 c)).2 = .error (.reservedBit b)) ∧
    exec (.dacWr r 1 c v) s = .refused .reservedBitSet ∧
    exec (.dacRd r 1 c) s = .refused .reservedBitSet

/-! ## The eight operations: results, completion and frame -/

/-- R67's pseudocode, in every state: ENC_MCU completes, and nothing but the returned result changes. That the value is
carried for a read too is decision D21, the port widths D7. -/
def Obligations.EncMcuCompletes : Prop :=
  ∀ s : State, exec .encMcu s = .next { s with result := some (
    if s.inp.ptype.toNat > 127 then .error (.outOfRange s.inp.ptype.toNat)
    else .frame [(s.inp.dir.setWidth 8 <<< 7) ||| (s.inp.ptype &&& 0x7F), s.inp.index,
      (s.inp.value >>> 8).setWidth 8, s.inp.value.setWidth 8]) }

/-- R71's pseudocode, in every state. Bit 2 of byte 0 and the place of the control code are decision D6, the port width
D7. -/
def Obligations.EncDacWrCompletes : Prop :=
  ∀ s : State, exec .encDacWr s = .next { s with result := some (
    if s.inp.index.toNat > 31 then .error (.outOfRange s.inp.index.toNat)
    else .frame [(s.inp.index <<< 3) ||| s.inp.ctrl.setWidth 8,
      (s.inp.value >>> 8).setWidth 8, s.inp.value.setWidth 8]) }

/-- R72's pseudocode, in every state: one byte, the value not read. D6 and D7 as for ENC_DAC_WR. -/
def Obligations.EncDacRdCompletes : Prop :=
  ∀ s : State, exec .encDacRd s = .next { s with result := some (
    if s.inp.index.toNat > 31 then .error (.outOfRange s.inp.index.toNat)
    else .frame [(s.inp.index <<< 3) ||| s.inp.ctrl.setWidth 8]) }

/-- R68 and R73 (op codes D3): the two decoders complete in every state with the big-endian quantity of their two
bytes, here as numbers. -/
def Obligations.DecodersComplete : Prop :=
  ∀ s : State,
    (∃ v : Value, exec .decMcu s = .next { s with result := some (.value v) } ∧
      v.toNat = 256 * s.inp.rx2.toNat + s.inp.rx3.toNat) ∧
    (∃ v : Value, exec .decDac s = .next { s with result := some (.value v) } ∧
      v.toNat = 256 * s.inp.rx0.toNat + s.inp.rx1.toNat)

/-- R61: DEC_MCU gives the same value, and no error, for every value of bytes 0 and 1. -/
def Obligations.DecMcuIgnoresPeerBytes : Prop :=
  ∀ (s : State) (x y : Byte), ∃ v : Value,
    exec .decMcu s = .next { s with result := some (.value v) } ∧
    exec .decMcu (drive (driveRx4 x y s.inp.rx2 s.inp.rx3) s) =
      .next { drive (driveRx4 x y s.inp.rx2 s.inp.rx3) s with result := some (.value v) }

/-- R69: whatever ENC_MCU answers, DEC_MCU of the value bytes after any two bytes gives the value back, and so does DEC_MCU of
the whole frame; and ENC_MCU answers a frame on the whole legal domain. -/
def Obligations.McuCodecRoundTrip : Prop :=
  ∀ s : State, s.inp.ptype.toNat ≤ 127 → ∃ f0 f1 f2 f3 : Byte, ∃ u : State,
    exec .encMcu s = .next u ∧ u.result = some (.frame [f0, f1, f2, f3]) ∧
    ∀ x y : Byte, exec .decMcu (drive (driveRx4 x y f2 f3) u) =
      .next { drive (driveRx4 x y f2 f3) u with result := some (.value s.inp.value) }

/-- R67 (f), derived there: ENC_MCU is injective on its legal domain. -/
def Obligations.EncMcuInjective : Prop :=
  ∀ (d d' : BitVec 1) (t t' i i' : Byte) (v v' : Value), t.toNat ≤ 127 → t'.toNat ≤ 127 →
    encMcu d t i v = encMcu d' t' i' v' → d = d' ∧ t = t' ∧ i = i' ∧ v = v'

/-- R74: for every legal index, the echo of a write frame's value bytes decodes to the value; index 32 is OutOfRange for
both requests, whatever the control code and the value. -/
def Obligations.DacCodecRoundTrip : Prop :=
  (∀ s : State, s.inp.index.toNat ≤ 31 → ∃ f0 f1 f2 : Byte, ∃ u : State,
    exec .encDacWr s = .next u ∧ u.result = some (.frame [f0, f1, f2]) ∧
    exec .decDac (drive (driveRx2 f1 f2) u) =
      .next { drive (driveRx2 f1 f2) u with result := some (.value s.inp.value) }) ∧
  (∀ s : State, s.inp.index = 32 →
    exec .encDacWr s = .next { s with result := some (.error (.outOfRange 32)) } ∧
    exec .encDacRd s = .next { s with result := some (.error (.outOfRange 32)) })

/-- R72 (b), derived there: for equal index and control code the read-trigger is byte 0 of the write frame. -/
def Obligations.ReadTriggerIsByteZeroOfWrite : Prop :=
  ∀ (i : Byte) (c : BitVec 2) (v : Value), i.toNat ≤ 31 →
    ∃ b0 b1 b2 : Byte, encDacWr i c v = .frame [b0, b1, b2] ∧ encDacRd i c = .frame [b0]

/-- R63: which operands the block rejects with OutOfRange: exactly these, and always as a returned status. -/
def Obligations.IllegalOperandsAreExactlyThese : Prop :=
  ∀ (op : BitVec 3) (s : State), ∃ u : State, exec (opInstr op) s = .next u ∧
    ((∃ o, u.result = some (.error (.outOfRange o))) ↔
      (opInstr op = .encMcu ∧ s.inp.ptype.toNat > 127) ∨
      (opInstr op = .encDacWr ∧ s.inp.index.toNat > 31) ∨
      (opInstr op = .encDacRd ∧ s.inp.index.toNat > 31) ∨
      (opInstr op = .encCmd ∧ ∃ pos e, find s.cfg (keyOf s.inp) = some pos ∧
        s.cfg.table[pos]? = some e ∧ e.target.peripheral = .dac ∧ e.target.index.toNat > 31))

/-- R14: the eight operations are pure: equal inputs and equal parameters give equal results in any two states, and an
evaluation changes nothing else. -/
def Obligations.OperationsArePure : Prop :=
  ∀ (op : BitVec 3) (s s' : State), s.inp = s'.inp → s.cfg = s'.cfg → ∃ r : OpResult,
    exec (opInstr op) s = .next { s with result := some r } ∧
    exec (opInstr op) s' = .next { s' with result := some r }

/-- R57, R106, R107 (the numbers are decision D4): the block raises only OutOfRange and NotFound; the status port shows 1 exactly
with an OutOfRange, 2 exactly with a NotFound, and 0 otherwise. -/
def Obligations.BlockStatusIsOkOrTwoErrors : Prop :=
  ∀ (op : BitVec 3) (s u : State), exec (opInstr op) s = .next u →
    ∃ o : OutPorts, outPortsOf u = some o ∧ (o.status = 0 ∨ o.status = 1 ∨ o.status = 2) ∧
      (o.status = 1 ↔ ∃ n, u.result = some (.error (.outOfRange n))) ∧
      (o.status = 2 ↔ ∃ k, u.result = some (.error (.notFound k)))

/-- R28, R46, R64 (port binding D2, D5, log entry 22), by what the operation returned: a frame (of ENC_MCU, ENC_DAC_WR or ENC_DAC_RD)
stands on `tx` with status OK and its length, 4, 3 or 1, on `tx_len`, and no other data output has a value; so does the frame of
ENC_CMD, 4, 3 or 1 by the entry; with any other result, an error among them, there is no frame and `tx_len` is 0, and with
an error no other data output has a value either. -/
def Obligations.TxLenMatchesFrame : Prop :=
  ∀ (op : BitVec 3) (s u : State), exec (opInstr op) s = .next u →
    ∃ o : OutPorts, outPortsOf u = some o ∧
      (∀ f, u.result = some (.frame f) →
        o.status = 0 ∧ o.tx = some f ∧ o.txLen.toNat = f.length ∧
        ((opInstr op = .encMcu ∧ f.length = 4) ∨ (opInstr op = .encDacWr ∧ f.length = 3) ∨
          (opInstr op = .encDacRd ∧ f.length = 1)) ∧
        o.rvalue = none ∧ o.hit = none ∧ o.entry = none ∧ o.rspLen = none) ∧
      (∀ pos e f n, u.result = some (.command pos e f n) →
        opInstr op = .encCmd ∧ o.status = 0 ∧ o.tx = some f ∧ o.txLen.toNat = f.length ∧
        f.length = (if e.target.peripheral ≠ .dac then 4 else if e.direction = .write then 3 else 1)) ∧
      ((∀ f, u.result ≠ some (.frame f)) → (∀ pos e f n, u.result ≠ some (.command pos e f n)) →
        o.tx = none ∧ o.txLen = 0) ∧
      (∀ err, u.result = some (.error err) →
        o.status ≠ 0 ∧ o.tx = none ∧ o.txLen = 0 ∧ o.rvalue = none ∧ o.entry = none ∧ o.rspLen = none)

/-- R28, R77, R79, R82, R68, R73 (port binding D2, the entry's encoding D11, unnamed outputs without a value D5 and log entry 22): what the
other output ports show. LOOKUP, LIST and ENC_CMD show the entry they present; NotFound shows `hit` 0 and no entry; the end of
the list `hit` 0 with status OK; ENC_CMD shows the frame and `rsp_len`; the decoders show `rvalue` alone. -/
def Obligations.OutputPortsShowResult : Prop :=
  ∀ s : State,
    (∀ pos e, find s.cfg (keyOf s.inp) = some pos → s.cfg.table[pos]? = some e →
      (∃ u o x, exec .lookup s = .next u ∧ outPortsOf u = some o ∧ ShowsEntry s.cfg o x pos e ∧
        o.tx = none ∧ o.rspLen = none) ∧
      ((e.target.peripheral = .dac → e.target.index.toNat ≤ 31) →
        ∃ u o x f, exec .encCmd s = .next u ∧ outPortsOf u = some o ∧ ShowsEntry s.cfg o x pos e ∧
          encodeEntry s.cfg e s.inp.value = .frame f ∧ o.tx = some f ∧
          o.rspLen = some (if e.target.peripheral = .dac then 2 else 4))) ∧
    (find s.cfg (keyOf s.inp) = none → ∀ i ∈ [Instr.lookup, Instr.encCmd],
      ∃ u o, exec i s = .next u ∧ outPortsOf u = some o ∧ o.status = 2 ∧ o.hit = some 0 ∧ o.entry = none ∧
        o.tx = none ∧ o.rvalue = none ∧ o.rspLen = none) ∧
    (∀ e, s.cfg.table[s.inp.pos]? = some e →
      ∃ u o x, exec .list s = .next u ∧ outPortsOf u = some o ∧ ShowsEntry s.cfg o x s.inp.pos e ∧
        o.tx = none ∧ o.rspLen = none) ∧
    (s.cfg.table.length ≤ s.inp.pos →
      ∃ u o, exec .list s = .next u ∧ outPortsOf u = some o ∧ o.status = 0 ∧ o.hit = some 0 ∧ o.entry = none ∧
        o.tx = none ∧ o.rvalue = none ∧ o.rspLen = none) ∧
    (∃ u o, exec .decMcu s = .next u ∧ outPortsOf u = some o ∧ o.status = 0 ∧ o.hit = none ∧ o.entry = none ∧
      o.tx = none ∧ o.rspLen = none ∧
      ∃ v : Value, o.rvalue = some v ∧ v.toNat = 256 * s.inp.rx2.toNat + s.inp.rx3.toNat) ∧
    (∃ u o, exec .decDac s = .next u ∧ outPortsOf u = some o ∧ o.status = 0 ∧ o.hit = none ∧ o.entry = none ∧
      o.tx = none ∧ o.rspLen = none ∧
      ∃ v : Value, o.rvalue = some v ∧ v.toNat = 256 * s.inp.rx0.toNat + s.inp.rx1.toNat)

/-! ## The Command Table operations -/

/-- R32, R77: LOOKUP presents position p exactly when p is the least position whose mnemonic is the key, and NotFound exactly
when no mnemonic is. On a table with duplicate mnemonics "least" is the spec's decision D33, and that such a table is admitted
at all is the model's choice, log entry 26. -/
def Obligations.LookupFindsLeastPosition : Prop :=
  (∀ (s : State) (p : Nat) (e : CommandEntry),
    exec .lookup s = .next { s with result := some (.entry p e) } ↔
      (s.cfg.table[p]? = some e ∧ e.mnemonic = keyOf s.inp ∧
        ∀ q e', q < p → s.cfg.table[q]? = some e' → e'.mnemonic ≠ keyOf s.inp)) ∧
  (∀ s : State, exec .lookup s = .next { s with result := some (.error (.notFound (keyOf s.inp))) } ↔
    ∀ e ∈ s.cfg.table, e.mnemonic ≠ keyOf s.inp)

/-- R78 (a) to (d): LOOKUP is total, finds every entry of a well-formed table by its own mnemonic, is repeatable, and
answers NotFound exactly when no entry has the key. -/
def Obligations.LookupLaws : Prop :=
  (∀ s : State, ∃ r : OpResult, exec .lookup s = .next { s with result := some r } ∧
    ((∃ p e, r = .entry p e) ∨ r = .error (.notFound (keyOf s.inp))) ∧
    exec .lookup { s with result := some r } = .next { s with result := some r } ∧
    (r = .error (.notFound (keyOf s.inp)) ↔ ∀ e ∈ s.cfg.table, e.mnemonic ≠ keyOf s.inp)) ∧
  (∀ (s : State) (p : Nat) (e : CommandEntry), TableWellFormed s.cfg → s.cfg.table[p]? = some e →
    keyOf s.inp = e.mnemonic → exec .lookup s = .next { s with result := some (.entry p e) })

/-- R77 (b), (d), (f) (representation of keys D8): bytes past `key_len` do not matter, and on a well-formed table the empty
key and "XYZ" give NotFound. -/
def Obligations.LookupKeyCorners : Prop :=
  (∀ (s : State) (k k' : List Byte) (n : Nat), k.take n = k'.take n →
    ∃ r : OpResult,
      exec .lookup { s with inp := { s.inp with key := k, keyLen := n } } =
        .next { s with inp := { s.inp with key := k, keyLen := n }, result := some r } ∧
      exec .lookup { s with inp := { s.inp with key := k', keyLen := n } } =
        .next { s with inp := { s.inp with key := k', keyLen := n }, result := some r }) ∧
  (∀ s : State, TableWellFormed s.cfg → keyOf s.inp = [] ∨ keyOf s.inp = [0x58, 0x59, 0x5A] →
    exec .lookup s = .next { s with result := some (.error (.notFound (keyOf s.inp))) })

/-- R79 (its shape is decision D10): LIST presents the entry at pos below T, and the end from T on. -/
def Obligations.ListCompletes : Prop :=
  ∀ s : State,
    (∀ h : s.inp.pos < s.cfg.table.length,
      exec .list s = .next { s with result := some (.entry s.inp.pos s.cfg.table[s.inp.pos]) }) ∧
    (s.inp.pos ≥ s.cfg.table.length → exec .list s = .next { s with result := some .endOfList })

/-- R80 (derived there; LIST's shape is D10): on a well-formed table LIST and LOOKUP agree in both directions. -/
def Obligations.ListAndLookupAgree : Prop :=
  ∀ (p : Params) (pos : Nat) (e : CommandEntry) (k : List Byte), TableWellFormed p →
    (listAt p pos = .entry pos e → lookup p e.mnemonic = .entry pos e) ∧
    (lookup p k = .entry pos e → listAt p pos = .entry pos e ∧ e.mnemonic = k)

/-- R82 with R81 and R83 (decision D20, control code place D6): what ENC_CMD answers for the entry its key finds, by peripheral and
direction, and NotFound when the key finds none. -/
def Obligations.EncCmdCompletes : Prop :=
  ∀ s : State,
    (find s.cfg (keyOf s.inp) = none →
      exec .encCmd s = .next { s with result := some (.error (.notFound (keyOf s.inp))) }) ∧
    (∀ pos e, find s.cfg (keyOf s.inp) = some pos → s.cfg.table[pos]? = some e →
      (∀ c, e.target.peripheral = .mcu c →
        exec .encCmd s = .next { s with result := some (.command pos e
          [((dirBit s.cfg e.direction).setWidth 8 <<< 7) ||| (typeCode s.cfg c).setWidth 8, e.target.index,
            (s.inp.value >>> 8).setWidth 8, s.inp.value.setWidth 8] 4) }) ∧
      (e.target.peripheral = .dac → e.target.index.toNat ≤ 31 → e.direction = .write →
        exec .encCmd s = .next { s with result := some (.command pos e
          [(e.target.index <<< 3) ||| s.cfg.dacCtrlWr.setWidth 8,
            (s.inp.value >>> 8).setWidth 8, s.inp.value.setWidth 8] 2) }) ∧
      (e.target.peripheral = .dac → e.target.index.toNat ≤ 31 → e.direction = .read →
        exec .encCmd s = .next { s with result := some (.command pos e
          [(e.target.index <<< 3) ||| s.cfg.dacCtrlRd.setWidth 8] 2) }) ∧
      (e.target.peripheral = .dac → e.target.index.toNat > 31 →
        exec .encCmd s = .next { s with result := some (.error (.outOfRange e.target.index.toNat)) }))

/-- R81, R59, R82: on well-formed parameters ENC_CMD never answers OutOfRange, and a microcontroller frame it makes has a
type field of 0 to 4. -/
def Obligations.EncCmdOnWellFormedTable : Prop :=
  ∀ s : State, ParamsWellFormed s.cfg → ∃ r : OpResult,
    exec .encCmd s = .next { s with result := some r } ∧
    (r = .error (.notFound (keyOf s.inp)) ∨
      ∃ pos e f n, r = .command pos e f n ∧
        (isDac e.target.peripheral = false → ∃ b0 rest, f = b0 :: rest ∧ (mcuType b0).toNat ≤ 4))

/-! ## Frames as instructions -/

/-- R97, R70, R75, R89 (the meaning of a request frame as an instruction is the model's, log entry 3, and what stands on `op`, log
entry 32): where a request may be sent, the three request frames complete: the encoder's code and the recovered operands
stand on the ports, the encoder returns the frame itself, and the transaction that sends it is in flight at Idle; nothing
else changes. -/
def Obligations.RequestFramesComplete : Prop :=
  ∀ s : State, CanSend s →
    (∀ d t i v, exec (.mcuReq d t i v) s = .next { s with
      inp := { s.inp with op := 0, dir := d, ptype := t.setWidth 8, index := i, value := v }
      result := some (.frame (encode (.mcuReq d t i v)).2)
      current := some ⟨.mcu, (encode (.mcuReq d t i v)).2, .direct⟩
      txnState := .idle }) ∧
    (∀ r c v, exec (.dacWr r 0 c v) s = .next { s with
      inp := { s.inp with op := 2, index := r.setWidth 8, ctrl := c, value := v }
      result := some (.frame (encode (.dacWr r 0 c v)).2)
      current := some ⟨.dac, (encode (.dacWr r 0 c v)).2, .direct⟩
      txnState := .idle }) ∧
    (∀ r c, exec (.dacRd r 0 c) s = .next { s with
      inp := { s.inp with op := 3, index := r.setWidth 8, ctrl := c }
      result := some (.frame (encode (.dacRd r 0 c)).2)
      current := some ⟨.dac, (encode (.dacRd r 0 c)).2, .direct⟩
      txnState := .idle })

/-- R102, U7, R104, R127 (the refusal's place in a request frame's meaning is log entry 23): a request frame is refused, by name,
while a transaction is in flight, after the session, and while the Bus Port is not open. -/
def Obligations.RequestFramesTurnedAway : Prop :=
  ∀ (s : State) (i : Instr), ((∃ d t x v, i = .mcuReq d t x v) ∨ (∃ r c v, i = .dacWr r 0 c v) ∨ (∃ r c, i = .dacRd r 0 c)) →
    (s.session = .running → s.current ≠ none → exec i s = .refused .transactionInFlight) ∧
    (s.session ≠ .running → exec i s = .refused .sessionEnded) ∧
    (s.session = .running → s.current = none → s.port ≠ .opened → exec i s = .refused .portNotOpen)

/-- R48, R51, R68, R73, R92 (the meaning of a response frame as an instruction is the model's, log entry 3): the two response frames
complete in every state: the bytes stand on `rx` (with the decoder's code on `op`, log entry 32) and are decoded; if the engine awaits
exactly this peer's read, the read is recorded and complete; nothing else changes. -/
def Obligations.ResponseFramesComplete : Prop :=
  ∀ (s : State) (p0 p1 : Byte) (v : Value),
    (∃ u : State, exec (.mcuRsp p0 p1 v) s = .next u ∧
      ((s.session = .running ∧ (∃ t, s.current = some t ∧ t.peer = .mcu) ∧ s.txnState = .settled →
          u = { s with
            inp := { s.inp with op := 1, rx0 := p0, rx1 := p1, rx2 := (v >>> 8).setWidth 8, rx3 := v.setWidth 8 }
            result := some (.value v)
            txnState := .readComplete
            busLog := s.busLog ++ [.read s.selectedPeer 4
              (some [p0, p1, (v >>> 8).setWidth 8, v.setWidth 8])] }) ∧
       (¬ (s.session = .running ∧ (∃ t, s.current = some t ∧ t.peer = .mcu) ∧ s.txnState = .settled) →
          u = { s with
            inp := { s.inp with op := 1, rx0 := p0, rx1 := p1, rx2 := (v >>> 8).setWidth 8, rx3 := v.setWidth 8 }
            result := some (.value v) }))) ∧
    (∃ u : State, exec (.dacRsp v) s = .next u ∧
      ((s.session = .running ∧ (∃ t, s.current = some t ∧ t.peer = .dac) ∧ s.txnState = .settled →
          u = { s with
            inp := { s.inp with op := 4, rx0 := (v >>> 8).setWidth 8, rx1 := v.setWidth 8 }
            result := some (.value v)
            txnState := .readComplete
            busLog := s.busLog ++ [.read s.selectedPeer 2
              (some [(v >>> 8).setWidth 8, v.setWidth 8])] }) ∧
       (¬ (s.session = .running ∧ (∃ t, s.current = some t ∧ t.peer = .dac) ∧ s.txnState = .settled) →
          u = { s with
            inp := { s.inp with op := 4, rx0 := (v >>> 8).setWidth 8, rx1 := v.setWidth 8 }
            result := some (.value v) })))

/-- The frame of every instruction. For the eight operations this is R14, R30 and R38; for the five frame rows it rests on log
entry 3 (a request frame makes no bus call itself, a response frame completes the read of R92). Whatever it does, a next state keeps
the parameters, the sweep, the stop request, the Bus Port, the session, the enumeration, the caller's commands, the outside's
events and the reports; and it makes at most one bus call, a read, and that only at Settled. (No operation writes memory or the table; there is no byte memory, log entry
25.) -/
def Obligations.InstructionFrame : Prop :=
  ∀ (i : Instr) (s u : State), exec i s = .next u →
    u.cfg = s.cfg ∧ u.sweep = s.sweep ∧ u.stop = s.stop ∧ u.selectedPeer = s.selectedPeer ∧
    u.port = s.port ∧ u.session = s.session ∧ u.help = s.help ∧ u.program = s.program ∧
    u.events = s.events ∧ u.reports = s.reports ∧
    (u.busLog = s.busLog ∨
      ∃ n bs, u.busLog = s.busLog ++ [.read s.selectedPeer n (some bs)] ∧ s.txnState = .settled)

/-! ## Fetching -/

/-- A step runs the decoded instruction (the machine's two fetch points are the model's, log entries 2 and 21). Where the caller
is ready, the step takes its next command: an evaluation with values of the ports' shape drives them and executes the
instruction of their `op`; a byte on the `op` port is driven there and executed; a frame is decoded on its interface and
executed, a request frame once the Bus Port is open (R127). Where the engine's read returns as many bytes as it asked for,
the step executes the frame they are. -/
def Obligations.StepRunsDecodedInstruction : Prop :=
  (∀ (s : State) (p : InPorts) (cs : List Command), Ready s → s.program = .eval p :: cs → PortsFit s.cfg p →
    step s = exec (opInstr p.op) { s with program := cs, inp := p }) ∧
  (∀ (s : State) (b : Byte) (cs : List Command) (i : Instr), Ready s →
    s.program = .word .opPort [b] :: cs → decode .opPort [b] = .ok i →
    step s = exec i { s with program := cs, inp := { s.inp with op := b.extractLsb' 0 3 } }) ∧
  (∀ (s : State) (ch : Channel) (bytes : List Byte) (cs : List Command) (i : Instr), Ready s →
    s.program = .word ch bytes :: cs → ch ≠ .opPort → decode ch bytes = .ok i →
    (ch = .hostToMcu ∨ ch = .hostToDac → s.port = .opened) → step s = exec i { s with program := cs }) ∧
  (∀ (s : State) (t : Txn) (bs : List Byte) (es : List Event) (i : Instr), s.session = .running →
    s.current = some t → s.txnState = .settled → s.events = .received (some bs) :: es →
    bs.length = respLen t.peer → decode (responseChannel t.peer) bs = .ok i →
    step s = exec i { s with events := es })

/-- A word placed by withFetchWord is what the very next step runs, from every state (log entry 21): an operation's code on the
`op` port, a request or response frame on its interface. -/
def Obligations.PlacedWordRunsNext : Prop :=
  ∀ (s : State) (nbits w : Nat) (i : Instr), decodeTableWord nbits w = some i →
    ∃ p : InPorts, (p = s.inp ∨ p = { s.inp with op := BitVec.ofNat 3 w }) ∧
      step (s.withFetchWord nbits w) =
        exec i { s.withFetchWord nbits w with inp := p, program := s.program }

/-- R77 (c), R27 (and, for values that no port can carry whole, the model's choice, log entry 33): what an evaluation does with values
that are not of the ports' shape. A key_len above MNEM_MAX for LOOKUP or ENC_CMD is reported as NotFound by the host without
consulting the block: no port and no result changes. Every other evaluation is executed: of the key the first MNEM_MAX bytes
are driven and a place for which no byte is given keeps its own, a key_len above MNEM_MAX leaves its port as it was, every
other port is driven as given; and a key given in full is the key the operation reads.
That NotFound leaves the transaction state as it was is log entry 35. -/
def Obligations.MisfitIsNotDriven : Prop :=
  ∀ (s : State) (p : InPorts) (cs : List Command), Ready s → s.program = .eval p :: cs →
    ((p.op = 5 ∨ p.op = 7) → s.cfg.mnemMax < p.keyLen →
      step s = .next { s with
        program := cs
        reports := s.reports ++ [.failure .direct (.notFound (p.key.take p.keyLen))] }) ∧
    (¬ ((p.op = 5 ∨ p.op = 7) ∧ s.cfg.mnemMax < p.keyLen) →
      ∃ q : InPorts, step s = exec (opInstr p.op) { s with program := cs, inp := q } ∧
        q = { p with key := q.key, keyLen := q.keyLen } ∧
        q.key = (p.key ++ s.inp.key.drop p.key.length).take s.cfg.mnemMax ∧
        (p.keyLen ≤ s.cfg.mnemMax → q.keyLen = p.keyLen) ∧
        (s.cfg.mnemMax < p.keyLen → q.keyLen = s.inp.keyLen) ∧
        (p.keyLen ≤ s.cfg.mnemMax → p.keyLen ≤ p.key.length → keyOf q = p.key.take p.keyLen))

/-! ## The Transaction Engine -/

/-- R127, R104 (which commands belong to the session, and that a failed open is reported under a name of its own, are log entries 10
and 29): a command of the session on the bus waits for the Bus Port, before any operation of the block is used for it. Opened:
the port is open and the command is still to come. Not opened: reported, and the session is over with failure. No answer yet:
the same state. -/
def Obligations.BusPortIsOpenedFirst : Prop :=
  ∀ (s : State) (c : Command) (cs : List Command) (es : List Event), Ready s → s.program = c :: cs →
    needsPort c = true → s.port ≠ .opened →
    (s.events = .opened true :: es → step s = .next { s with events := es, port := .opened }) ∧
    (s.events = .opened false :: es → step s = .next { s with
      events := es
      reports := s.reports ++ [.openFailed]
      session := .ended .failure
      port := releasedPort s.port
      sweep := ⟨false, s.sweep.pos⟩ }) ∧
    (s.events = [] → step s = .next s)

/-- R104, R127: the Bus Port is released "on every exit path, including cancellation": whatever step ends the session, an opened port is
released by it, and none is open after it. -/
def Obligations.PortReleasedOnEveryExit : Prop :=
  ∀ s u : State, s.session = .running → step s = .next u → u.session ≠ .running →
    u.port ≠ .opened ∧ (s.port = .opened → u.port = .released)

/-- R88, R94, R96: select_peer succeeds: the peer is the transaction's and the state PeerSelected; it fails: Failed, reported as a
bus error of that call, which is the step's last (in the sweep its wait follows, by R98's pseudocode and D25), nothing in flight. What a failed selection
leaves selected is log entry 7, and nothing is said of it.
A stop request is looked at in this very step of a sweep, none being noted during the wait: log entry 36. -/
def Obligations.SelectCall : Prop :=
  ∀ (s : State) (t : Txn) (es : List Event), s.session = .running → s.current = some t →
    s.txnState = .idle → s.port = .opened →
    (s.events = .selected true :: es →
      step s = .next { s with
        events := es
        selectedPeer := peerAddr s.cfg t.peer
        txnState := .peerSelected
        busLog := s.busLog ++ [.selectPeer (peerAddr s.cfg t.peer) true] }) ∧
    (s.events = .selected false :: es → ∃ u, step s = .next u ∧
      ((∀ pos e, t.who ≠ .sweep pos e) →
        u = { failedOutside t .select (.selectPeer (peerAddr s.cfg t.peer) false) es s with
          selectedPeer := u.selectedPeer }) ∧
      (∀ pos e, t.who = .sweep pos e →
        u = { failedInSweep t .select (.selectPeer (peerAddr s.cfg t.peer) false) es s with
          selectedPeer := u.selectedPeer }))

/-- R90, R94, R96, D32 and U12 for the last clause: the whole frame in one write; accepted only when all of it was written; a short
or failed write fails the transaction, and is the step's last call (in the sweep its wait follows, R98, D25): no read, no settle delay; a
count above the request has no meaning.
A stop request is looked at in this very step of a sweep, none being noted during the wait: log entry 36. -/
def Obligations.WriteCall : Prop :=
  ∀ (s : State) (t : Txn) (es : List Event), s.session = .running → s.current = some t →
    s.txnState = .peerSelected →
    (s.events = .written (some t.frame.length) :: es →
      step s = .next { s with
        events := es
        txnState := .written
        busLog := s.busLog ++ [.write s.selectedPeer t.frame (some t.frame.length)] }) ∧
    (∀ w : Option Nat, s.events = .written w :: es → (∀ n, w = some n → n < t.frame.length) →
      ((∀ pos e, t.who ≠ .sweep pos e) →
        step s = .next (failedOutside t .write (.write s.selectedPeer t.frame w) es s)) ∧
      (∀ pos e, t.who = .sweep pos e →
        step s = .next (failedInSweep t .write (.write s.selectedPeer t.frame w) es s))) ∧
    (∀ n, s.events = .written (some n) :: es → n > t.frame.length → step s = .refused .overReport)

/-- R91: after the write the settle delay is taken, whatever the peer, the direction and the caller, and leads to Settled; no
answer from outside is used. -/
def Obligations.SettleDelayIsUnconditional : Prop :=
  ∀ (s : State) (t : Txn), s.session = .running → s.current = some t → s.txnState = .written →
    (∀ e es, s.events = e :: es → isOutsideRequest e = false) →
    step s = .next { s with txnState := .settled, busLog := s.busLog ++ [.delay 25 1] }

/-- R92, R94, D32 and U12 for the last clause: one read of resp_len bytes (4 or 2); all of them complete it, fewer or a bus error fail
the transaction, which is the step's last call (in the sweep its wait follows, R98, D25), and nothing is decoded (the result on
the ports stays); more has no meaning.
A stop request is looked at in this very step of a sweep, none being noted during the wait: log entry 36. -/
def Obligations.ReadCall : Prop :=
  ∀ (s : State) (t : Txn) (es : List Event), s.session = .running → s.current = some t →
    s.txnState = .settled →
    (∀ bs, s.events = .received (some bs) :: es → bs.length = respLen t.peer →
      ∃ u, step s = .next u ∧ u.txnState = .readComplete ∧ u.current = some t ∧ u.events = es ∧
        u.busLog = s.busLog ++ [.read s.selectedPeer (respLen t.peer) (some bs)]) ∧
    (∀ got : Option (List Byte), s.events = .received got :: es →
      (∀ bs, got = some bs → bs.length < respLen t.peer) →
      ((∀ pos e, t.who ≠ .sweep pos e) →
        step s = .next (failedOutside t .read (.read s.selectedPeer (respLen t.peer) got) es s)) ∧
      (∀ pos e, t.who = .sweep pos e →
        step s = .next (failedInSweep t .read (.read s.selectedPeer (respLen t.peer) got) es s))) ∧
    (∀ bs, s.events = .received (some bs) :: es → bs.length > respLen t.peer →
      step s = .refused .overReport)

/-- R93, R83, and R66, R98, R101 for what follows: step 6 decodes the response by the peer's decoder, cannot fail, and returns the value
to the caller. For a request frame and a line the session runs on; the one-shot process ends with success; the sweep waits
SWEEP_PERIOD / T (D25) and goes to its next position, or returns (its cursor then as it was: log entry 16). No other bus call
is made.
A stop request is looked at in this very step of a sweep, none being noted during the wait: log entry 36. -/
def Obligations.DecodeReturnsValue : Prop :=
  ∀ (s : State) (t : Txn), s.session = .running → s.current = some t → s.txnState = .readComplete →
    (∀ e es, s.events = e :: es → isOutsideRequest e = false) →
    ∃ u, ∃ v : Value, step s = .next u ∧ u.txnState = .decoded ∧ u.current = none ∧
      u.result = some (.value v) ∧ u.reports = s.reports ++ [.value t.who v] ∧
      (t.peer = .mcu → v.toNat = 256 * s.inp.rx2.toNat + s.inp.rx3.toNat) ∧
      (t.peer = .dac → v.toNat = 256 * s.inp.rx0.toNat + s.inp.rx1.toNat) ∧
      (t.who = .direct ∨ t.who = .line → u.session = .running ∧ u.busLog = s.busLog ∧ u.sweep = s.sweep) ∧
      (t.who = .oneShot → u.session = .ended .success ∧ u.busLog = s.busLog) ∧
      (∀ pos e, t.who = .sweep pos e → u.session = .running ∧ u.sweep = sweepNext s ∧
        u.busLog = s.busLog ++ [.delay 1000 s.cfg.table.length])

/-- R103, R132: a bus call that has not returned leaves the transaction where it is: the step answers the same state. -/
def Obligations.UnansweredCallWaits : Prop :=
  ∀ (s : State) (t : Txn), s.session = .running → s.current = some t → s.events = [] →
    (s.txnState = .idle ∨ s.txnState = .peerSelected ∨ s.txnState = .settled) → step s = .next s

/-- R93 whole, on its successful path (R88 to R92; the place of the range check is decision D19, before it): from a transaction at
Idle on an open port whose peer answers each call in full, five steps make exactly the calls select_peer, write, delay, read, in
that order, once each (a transaction of the sweep is followed by the sweep's own wait, R101, and by nothing else), and end in
Decoded with the decoded value returned to the caller. -/
def Obligations.TransactionSucceeds : Prop :=
  ∀ (s : State) (t : Txn) (bs : List Byte) (es : List Event),
    s.session = .running → s.current = some t → s.txnState = .idle → s.port = .opened →
    s.events = .selected true :: .written (some t.frame.length) :: .received (some bs) :: es →
    (∀ e es', es = e :: es' → isOutsideRequest e = false) →
    bs.length = respLen t.peer →
    ∃ u, ∃ v : Value, ∃ after : List BusCall, core.run 5 s = .next u ∧ u.txnState = .decoded ∧ u.current = none ∧
      u.reports = s.reports ++ [.value t.who v] ∧
      u.busLog = s.busLog ++
        [.selectPeer (peerAddr s.cfg t.peer) true,
         .write (peerAddr s.cfg t.peer) t.frame (some t.frame.length),
         .delay 25 1,
         .read (peerAddr s.cfg t.peer) (respLen t.peer) (some bs)] ++ after ∧
      ((∀ pos e, t.who ≠ .sweep pos e) → after = []) ∧
      (∀ pos e, t.who = .sweep pos e → after = [.delay 1000 s.cfg.table.length]) ∧
      (∀ b0 b1 b2 b3, bs = [b0, b1, b2, b3] → t.peer = .mcu → v = joinBytes b2 b3) ∧
      (∀ b0 b1, bs = [b0, b1] → t.peer = .dac → v = joinBytes b0 b1)

/-- R95, R96, R99: a transaction in flight leaves flight only in Decoded or Failed; a stop request that arrives while it is in
flight leaves it there, in its state; and so does a process-level termination, which ends the session (U13: the transaction is
stuck and "reaches no terminal state"; that it acts at once is log entry 17), making no bus call. -/
def Obligations.TransactionEndsOnlyTerminal : Prop :=
  ∀ (s u : State) (t : Txn), s.session = .running → s.current = some t → isTerminal s.txnState = false →
    step s = .next u →
    (u.current = some t ∨ (u.current = none ∧ (u.txnState = .decoded ∨ u.txnState = .failed))) ∧
    (∀ es, s.events = .stopRequest :: es → u.current = some t ∧ u.txnState = s.txnState) ∧
    (∀ es, s.events = .terminate :: es → u.session = .terminated ∧ u.current = some t ∧ u.txnState = s.txnState ∧
      u.busLog = s.busLog)

/-- R94, R100, R105: what a failed transaction leads to: outside the sweep the session ends with failure, and no retry is begun;
inside the sweep the session and the sweep go on to the next position, unless a stop was requested and is looked at there
(R99); that the sweep which then returns keeps its cursor is the model's, log entry 16.
A stop request is looked at in this very step of a sweep, none being noted during the wait: log entry 36. -/
def Obligations.FailureEndsSessionExceptInSweep : Prop :=
  ∀ (s u : State) (t : Txn), s.session = .running → s.current = some t → isTerminal s.txnState = false →
    step s = .next u → u.txnState = .failed →
    u.current = none ∧
    ((∀ pos e, t.who ≠ .sweep pos e) → u.session = .ended .failure) ∧
    (∀ pos e, t.who = .sweep pos e → u.session = .running ∧
      u.sweep = sweepNext s)

/-- The engine's invariant holds at reset (the ports at reset are log entry 5). -/
def Obligations.EngineInvAtReset : Prop := EngineInv State.reset

/-- R93, R95, R96, R128, R130, R25: from every state that meets it, reached or not, a step keeps the engine's invariant: the record of
bus calls is a sequence of whole transactions in the order select_peer, write, 25 ms delay, read, each call to the peer that was
selected, followed by the calls the transaction in flight has made; a transaction in flight has a frame of its peer's shape with
the reserved bit clear (D6); transactions and the sweep run only with the Bus Port opened (R127); and the key ports keep the
shape R27 gives them. -/
def Obligations.StepKeepsEngineInv : Prop :=
  ∀ s u : State, EngineInv s → step s = .next u → EngineInv u

/-! ## Whole-machine rules -/

/-- R17, R23: no step changes the table or any parameter. -/
def Obligations.ConfigurationIsConstant : Prop :=
  ∀ s u : State, step s = .next u → u.cfg = s.cfg

/-- R110 and S5: no step drops anything from the record of bus calls or from what was reported. -/
def Obligations.RecordsOnlyGrow : Prop :=
  ∀ s u : State, step s = .next u → s.busLog <+: u.busLog ∧ s.reports <+: u.reports

/-- R66, R94, U13: after the session's end nothing more happens. -/
def Obligations.EndedSessionDoesNothing : Prop :=
  ∀ s : State, s.session ≠ .running → step s = .next s

/-- R124, with R104 and R127 for the port: the values at start. The selected peer is unspecified (log entry 7: a free value) and
nothing is said of it; that no sweep and no enumeration is under way, that the port is closed, the session running, nothing
returned and every record and list empty are the model's (log entries 16, 10, 21, 6, 8 and 19). -/
def Obligations.ResetValues : Prop :=
  State.reset.txnState = .idle ∧ State.reset.current = none ∧ State.reset.sweep = ⟨false, 0⟩ ∧
  State.reset.stop = false ∧ State.reset.port = .closed ∧ State.reset.session = .running ∧
  State.reset.cfg = Config.instanceParams ∧ State.reset.result = none ∧ State.reset.busLog = [] ∧
  State.reset.reports = [] ∧ State.reset.help = none ∧ State.reset.program = [] ∧ State.reset.events = []

/-- R112, R99, R66, and the model's choices of log entries 31 and 16: that a stop request is noted in a step of its own, in which nothing
else happens, and that with nothing under way, be it after a sweep that returned, the next step ends the session with success
("signal-driven cleanup", R66). -/
def Obligations.StopRequestIsNotedThenObeyed : Prop :=
  (∀ (s : State) (es : List Event), s.session = .running → s.events = .stopRequest :: es →
    step s = .next { s with events := es, stop := true }) ∧
  (∀ s : State, s.session = .running → (∀ e es, s.events = e :: es → isOutsideRequest e = false) →
    s.current = none → s.sweep.active = false → s.help = none → s.stop = true →
    ∃ u, step s = .next u ∧ u.session = .ended .success ∧ u.busLog = s.busLog)

/-! ## The caller: lines, one-shot, sweep, enumeration -/

/-- R86: the document's five examples of parse_value_argument. -/
def Obligations.ParseValueExamples : Prop :=
  parseValue [] = .ok 0 ∧ parseValue ['6', '5', '5', '3', '5'] = .ok 65535 ∧
  parseValue ['6', '5', '5', '3', '6'] = .error .outOfRange ∧
  parseValue ['-', '1'] = .error .outOfRange ∧ parseValue ['a', 'b', 'c'] = .error .malformed

/-- R85 (leading zeros and "-0" by decision D31): every non-empty string of decimal digits is its number, never wrapped, or a
range error above 65535; with a minus sign before it, a range error. -/
def Obligations.ParseValueOfDigits : Prop :=
  ∀ ds : List (Fin 10), ds ≠ [] →
    parseValue (ds.map (fun d => Char.ofNat (48 + d.val))) =
      (if ds.foldl (fun n d => 10 * n + d.val) 0 ≤ 65535
        then .ok (BitVec.ofNat 16 (ds.foldl (fun n d => 10 * n + d.val) 0))
        else .error .outOfRange) ∧
    parseValue ('-' :: ds.map (fun d => Char.ofNat (48 + d.val))) = .error .outOfRange

/-- R105, R106, R113 (order by decision D24), R77 (c): the validation errors of a command line, each reported, with no transaction
begun and no bus call made: NotFound first, then ParseError, then ENC_CMD's OutOfRange for a Dac entry above 31 (an ill-formed
table, log entry 26); and the host's range check and the block's for `W` and `R` (which integers the host reads is log
entry 12). -/
def Obligations.ValidationErrorsMakeNoBusCall : Prop :=
  ∀ (s : State) (l : Line) (cs : List Command) (err : Err), SessionReady s → s.program = .line l :: cs →
    ((∃ k tok, l = .command k tok ∧ (∀ e ∈ s.cfg.table, e.mnemonic ≠ k) ∧ err = .notFound k) ∨
     (∃ k tok r e, l = .command k tok ∧ k.length ≤ s.cfg.mnemMax ∧ e ∈ s.cfg.table ∧ e.mnemonic = k ∧
        parseValue tok = .error r ∧ err = .parseError r tok) ∨
     (∃ k tok v pos e, l = .command k tok ∧ k.length ≤ s.cfg.mnemMax ∧ find s.cfg k = some pos ∧
        s.cfg.table[pos]? = some e ∧ parseValue tok = .ok v ∧ e.target.peripheral = .dac ∧
        e.target.index.toNat > 31 ∧ err = .outOfRange e.target.index.toNat) ∨
     (∃ i v, l = .dacWrite i v ∧ (i < 0 ∨ i > 255) ∧ err = .outOfRange i) ∨
     (∃ i v, l = .dacWrite i v ∧ 0 ≤ i ∧ i ≤ 255 ∧ (v < 0 ∨ v > 65535) ∧ err = .outOfRange v) ∨
     (∃ i v, l = .dacWrite i v ∧ 31 < i ∧ i ≤ 255 ∧ 0 ≤ v ∧ v ≤ 65535 ∧ err = .outOfRange i) ∨
     (∃ i, l = .dacRead i ∧ (i < 0 ∨ i > 31) ∧ err = .outOfRange i)) →
    ∃ u, step s = .next u ∧ u.current = none ∧ u.busLog = s.busLog ∧ u.session = .running ∧
      u.program = cs ∧ u.reports = s.reports ++ [.failure .line err]

/-- R65, R81, R82, R93 (D20): a line whose mnemonic is an entry's and whose value parses begins that entry's transaction, with the
frame ENC_CMD answers, at Idle, before any bus call. -/
def Obligations.CommandLineBeginsTransaction : Prop :=
  ∀ (s : State) (k : List Byte) (tok : List Char) (cs : List Command) (pos : Nat) (e : CommandEntry) (v : Value)
    (f : Frame) (n : Nat), SessionReady s → s.program = .line (.command k tok) :: cs → k.length ≤ s.cfg.mnemMax →
    parseValue tok = .ok v → encCmd s.cfg k v = .command pos e f n →
    ∃ u, step s = .next u ∧ u.current = some ⟨peerOf e.target.peripheral, f, .line⟩ ∧ u.txnState = .idle ∧
      u.result = some (.command pos e f n) ∧ u.busLog = s.busLog ∧ u.reports = s.reports ∧ u.program = cs

/-- R97, R65: the DAC lines begin the explicit DAC transactions with the parameters' control codes (byte 0 by D6). -/
def Obligations.DacLinesBeginTransaction : Prop :=
  ∀ (s : State) (cs : List Command) (i : Fin 32), SessionReady s →
    (∀ v : Value, s.program = .line (.dacWrite i.val v.toNat) :: cs →
      ∃ u, step s = .next u ∧ u.txnState = .idle ∧ u.busLog = s.busLog ∧ u.current = some ⟨.dac,
        [(BitVec.ofNat 8 i.val <<< 3) ||| s.cfg.dacCtrlWr.setWidth 8, (v >>> 8).setWidth 8, v.setWidth 8], .line⟩) ∧
    (s.program = .line (.dacRead i.val) :: cs →
      ∃ u, step s = .next u ∧ u.txnState = .idle ∧ u.busLog = s.busLog ∧ u.current = some ⟨.dac,
        [(BitVec.ofNat 8 i.val <<< 3) ||| s.cfg.dacCtrlRd.setWidth 8], .line⟩)

/-- R66, R97, R106: the one-shot mode begins ENC_MCU's transaction for four integers in range with a type up to 127; a type from 128
to 255 is the block's OutOfRange and an integer outside its port's range the host's, both with no bus call; what is reported is
an offending integer. Which of several is reported is log entry 12; that the process then ends is log entry 14. -/
def Obligations.OneShotBeginsOrRejects : Prop :=
  ∀ (s : State) (d t i v : Int) (cs : List Command), SessionReady s → s.program = .oneShot d t i v :: cs →
    ((0 ≤ d ∧ d ≤ 1) → (0 ≤ t ∧ t ≤ 127) → (0 ≤ i ∧ i ≤ 255) → (0 ≤ v ∧ v ≤ 65535) →
      ∃ u f, step s = .next u ∧ u.txnState = .idle ∧ u.busLog = s.busLog ∧
        u.current = some ⟨.mcu, f, .oneShot⟩ ∧
        encMcu (BitVec.ofNat 1 d.toNat) (BitVec.ofNat 8 t.toNat) (BitVec.ofNat 8 i.toNat)
          (BitVec.ofNat 16 v.toNat) = .frame f) ∧
    ((d < 0 ∨ d > 1 ∨ t < 0 ∨ t > 127 ∨ i < 0 ∨ i > 255 ∨ v < 0 ∨ v > 65535) →
      ∃ u o, step s = .next u ∧ u.current = none ∧ u.busLog = s.busLog ∧
        u.session = .ended Config.oneShotRejectExit ∧
        u.reports = s.reports ++ [.failure .oneShot (.outOfRange o)] ∧
        ((o = d ∧ (d < 0 ∨ d > 1)) ∨ (o = t ∧ (t < 0 ∨ t > 127)) ∨ (o = i ∧ (i < 0 ∨ i > 255)) ∨
          (o = v ∧ (v < 0 ∨ v > 65535))))

/-- R98 (read-capable by D18, Dac entries polled by D34), R99: where the sweep stands at an entry it begins the entry's transaction with
value 0 if it is a Read entry that encodes; one that does not (an ill-formed table, log entry 26) is reported, with no bus call:
the state shows Idle (R96's first row, D29; that the model shows it there after an ended transaction is log entry 35), and the
sweep's wait follows (R98's pseudocode and D25 put it after every polled entry, a failed one too; log entry 18). A Write entry
is passed over. Then the sweep goes to the next position, or returns if a stop was requested and it looks at it there. Past the
last position the next pass begins at 0, unless a stop was requested: that it is looked at there under both settings is log
entry 15, that the sweep which returns keeps its cursor log entry 16. A stop request is looked at in this very step, none being
noted during the wait: log entry 36. -/
def Obligations.SweepVisitsEntries : Prop :=
  ∀ s : State, s.session = .running → (∀ e es, s.events = e :: es → isOutsideRequest e = false) →
    s.current = none → s.sweep.active = true →
    (∀ e f, s.cfg.table[s.sweep.pos]? = some e → e.direction = .read → encodeEntry s.cfg e 0 = .frame f →
      ∃ u, step s = .next u ∧ u.txnState = .idle ∧ u.sweep = s.sweep ∧ u.busLog = s.busLog ∧
        u.reports = s.reports ∧
        u.current = some ⟨peerOf e.target.peripheral, f, .sweep s.sweep.pos e⟩) ∧
    (∀ e err, s.cfg.table[s.sweep.pos]? = some e → e.direction = .read → encodeEntry s.cfg e 0 = .error err →
      ∃ u, step s = .next u ∧ u.txnState = .idle ∧ u.current = none ∧ u.session = .running ∧
        u.reports = s.reports ++ [.failure (.sweep s.sweep.pos e) err] ∧ u.sweep = sweepNext s ∧
        u.busLog = s.busLog ++ [.delay 1000 s.cfg.table.length]) ∧
    (∀ e, s.cfg.table[s.sweep.pos]? = some e → e.direction = .write →
      ∃ u, step s = .next u ∧ u.current = none ∧ u.session = .running ∧ u.busLog = s.busLog ∧
        u.reports = s.reports ∧
        (s.stop = true → s.cfg.stopCheck = .perEntry → u.sweep = ⟨false, s.sweep.pos⟩) ∧
        (s.stop = false ∨ s.cfg.stopCheck = .perPass → u.sweep = ⟨true, s.sweep.pos + 1⟩)) ∧
    (s.cfg.table.length ≤ s.sweep.pos →
      step s = .next { s with sweep := if s.stop = true then ⟨false, s.sweep.pos⟩ else ⟨true, 0⟩ })

/-- R65, R79 (LIST's shape D10): the line `H` lists every entry of the table once, in declaration order, and makes no bus call: one step
takes the line, one presents each position and one the end; then the caller goes on with its next command. -/
def Obligations.HelpListsWholeTable : Prop :=
  ∀ (s : State) (cs : List Command), SessionReady s → s.program = .line .help :: cs →
    ∃ u, core.run (s.cfg.table.length + 2) s = .next u ∧ u.help = none ∧ u.busLog = s.busLog ∧
      u.current = none ∧ u.session = .running ∧ u.program = cs ∧
      u.reports = s.reports ++ s.cfg.table.zipIdx.map (fun x => .listed x.2 x.1)

/-- R65, R66, R98, R104, R127: the line `Q` ends the session with success, makes no bus call and releases the Bus Port; the command that
starts the sweep makes it active at position 0 and does nothing else. -/
def Obligations.QuitAndSweepCommands : Prop :=
  ∀ (s : State) (cs : List Command), SessionReady s →
    (s.program = .line .quit :: cs → step s = .next { s with
      program := cs
      session := .ended .success
      port := .released
      sweep := ⟨false, s.sweep.pos⟩ }) ∧
    (s.program = .sweep :: cs → step s = .next { s with program := cs, sweep := ⟨true, 0⟩ })
end

