-- ==== Sys2Proof/Laws/Bytes.lean ====
section
/-! SUPPORT. The byte and bit-field helpers undo each other (R53, R54). -/

namespace Sys2Proof

@[simp] theorem joinBytes_hi_lo (v : Value) : joinBytes (hiByte v) (loByte v) = v := by
  ext i hi
  by_cases h : i < 8
  · simp [joinBytes, hiByte, loByte, h, BitVec.getLsbD_eq_getElem hi]
  · have : i - 8 < 8 := by omega
    simp [joinBytes, hiByte, loByte, h, this, show 8 + (i - 8) = i by omega, BitVec.getLsbD_eq_getElem hi]

@[simp] theorem hiByte_joinBytes (a b : Byte) : hiByte (joinBytes a b) = a := by
  ext i hi
  simp [joinBytes, hiByte, hi, show 8 + i < 16 by omega]

@[simp] theorem loByte_joinBytes (a b : Byte) : loByte (joinBytes a b) = b := by
  ext i hi
  simp [joinBytes, loByte, hi, show i < 16 by omega]

@[simp] theorem mcuDir_byte0 (d : BitVec 1) (t : BitVec 7) : mcuDir (mcuByte0 d t) = d := by
  revert d t; decide

@[simp] theorem mcuType_byte0 (d : BitVec 1) (t : BitVec 7) : mcuType (mcuByte0 d t) = t := by
  revert d t; decide

@[simp] theorem mcuByte0_fields (b : Byte) : mcuByte0 (mcuDir b) (mcuType b) = b := by
  revert b; decide

@[simp] theorem dacReg_byte0 (r : BitVec 5) (z : BitVec 1) (c : BitVec 2) : dacReg (dacByte0 r z c) = r := by
  revert r z c; decide

@[simp] theorem dacReserved_byte0 (r : BitVec 5) (z : BitVec 1) (c : BitVec 2) :
    dacReserved (dacByte0 r z c) = z := by
  revert r z c; decide

@[simp] theorem dacCtrl_byte0 (r : BitVec 5) (z : BitVec 1) (c : BitVec 2) : dacCtrl (dacByte0 r z c) = c := by
  revert r z c; decide

@[simp] theorem dacByte0_fields (b : Byte) : dacByte0 (dacReg b) (dacReserved b) (dacCtrl b) = b := by
  revert b; decide

/-- The seven type bits of a type that came from seven bits are itself. -/
@[simp] theorem extract_type_setWidth (t : BitVec 7) : (t.setWidth 8).extractLsb' 0 7 = t := by
  revert t; decide

/-- The five index bits of an index that came from five bits are itself. -/
@[simp] theorem extract_reg_setWidth (r : BitVec 5) : (r.setWidth 8).extractLsb' 0 5 = r := by
  revert r; decide

theorem type_setWidth_le (t : BitVec 7) : ¬ (t.setWidth 8).toNat > 127 := by
  have := t.isLt; simp; omega

theorem reg_setWidth_le (r : BitVec 5) : ¬ (r.setWidth 8).toNat > 31 := by
  have := r.isLt; simp; omega

end Sys2Proof
end

