-- ==== Sys2Proof/Laws/State.lean ====
section
/-! SUPPORT. One lemma per field per named update of the state, so that no proof unfolds a record update. -/

namespace Sys2Proof.Machine

@[simp] theorem ret_cfg (r : OpResult) (s : State) : (ret r s).cfg = s.cfg := rfl
@[simp] theorem ret_inp (r : OpResult) (s : State) : (ret r s).inp = s.inp := rfl
@[simp] theorem ret_result (r : OpResult) (s : State) : (ret r s).result = some r := rfl
@[simp] theorem ret_txnState (r : OpResult) (s : State) : (ret r s).txnState = s.txnState := rfl
@[simp] theorem ret_current (r : OpResult) (s : State) : (ret r s).current = s.current := rfl
@[simp] theorem ret_sweep (r : OpResult) (s : State) : (ret r s).sweep = s.sweep := rfl
@[simp] theorem ret_stop (r : OpResult) (s : State) : (ret r s).stop = s.stop := rfl
@[simp] theorem ret_selectedPeer (r : OpResult) (s : State) : (ret r s).selectedPeer = s.selectedPeer := rfl
@[simp] theorem ret_port (r : OpResult) (s : State) : (ret r s).port = s.port := rfl
@[simp] theorem ret_session (r : OpResult) (s : State) : (ret r s).session = s.session := rfl
@[simp] theorem ret_help (r : OpResult) (s : State) : (ret r s).help = s.help := rfl
@[simp] theorem ret_program (r : OpResult) (s : State) : (ret r s).program = s.program := rfl
@[simp] theorem ret_events (r : OpResult) (s : State) : (ret r s).events = s.events := rfl
@[simp] theorem ret_busLog (r : OpResult) (s : State) : (ret r s).busLog = s.busLog := rfl
@[simp] theorem ret_reports (r : OpResult) (s : State) : (ret r s).reports = s.reports := rfl

@[simp] theorem raise_cfg (e : Err) (s : State) : (raise e s).cfg = s.cfg := rfl
@[simp] theorem raise_inp (e : Err) (s : State) : (raise e s).inp = s.inp := rfl
@[simp] theorem raise_result (e : Err) (s : State) : (raise e s).result = some (.error e) := rfl
@[simp] theorem raise_txnState (e : Err) (s : State) : (raise e s).txnState = s.txnState := rfl
@[simp] theorem raise_current (e : Err) (s : State) : (raise e s).current = s.current := rfl
@[simp] theorem raise_sweep (e : Err) (s : State) : (raise e s).sweep = s.sweep := rfl
@[simp] theorem raise_stop (e : Err) (s : State) : (raise e s).stop = s.stop := rfl
@[simp] theorem raise_selectedPeer (e : Err) (s : State) : (raise e s).selectedPeer = s.selectedPeer := rfl
@[simp] theorem raise_port (e : Err) (s : State) : (raise e s).port = s.port := rfl
@[simp] theorem raise_session (e : Err) (s : State) : (raise e s).session = s.session := rfl
@[simp] theorem raise_help (e : Err) (s : State) : (raise e s).help = s.help := rfl
@[simp] theorem raise_program (e : Err) (s : State) : (raise e s).program = s.program := rfl
@[simp] theorem raise_events (e : Err) (s : State) : (raise e s).events = s.events := rfl
@[simp] theorem raise_busLog (e : Err) (s : State) : (raise e s).busLog = s.busLog := rfl
@[simp] theorem raise_reports (e : Err) (s : State) : (raise e s).reports = s.reports := rfl

@[simp] theorem drive_cfg (f : InPorts → InPorts) (s : State) : (drive f s).cfg = s.cfg := rfl
@[simp] theorem drive_inp (f : InPorts → InPorts) (s : State) : (drive f s).inp = f s.inp := rfl
@[simp] theorem drive_result (f : InPorts → InPorts) (s : State) : (drive f s).result = s.result := rfl
@[simp] theorem drive_txnState (f : InPorts → InPorts) (s : State) : (drive f s).txnState = s.txnState := rfl
@[simp] theorem drive_current (f : InPorts → InPorts) (s : State) : (drive f s).current = s.current := rfl
@[simp] theorem drive_sweep (f : InPorts → InPorts) (s : State) : (drive f s).sweep = s.sweep := rfl
@[simp] theorem drive_stop (f : InPorts → InPorts) (s : State) : (drive f s).stop = s.stop := rfl
@[simp] theorem drive_selectedPeer (f : InPorts → InPorts) (s : State) : (drive f s).selectedPeer = s.selectedPeer := rfl
@[simp] theorem drive_port (f : InPorts → InPorts) (s : State) : (drive f s).port = s.port := rfl
@[simp] theorem drive_session (f : InPorts → InPorts) (s : State) : (drive f s).session = s.session := rfl
@[simp] theorem drive_help (f : InPorts → InPorts) (s : State) : (drive f s).help = s.help := rfl
@[simp] theorem drive_program (f : InPorts → InPorts) (s : State) : (drive f s).program = s.program := rfl
@[simp] theorem drive_events (f : InPorts → InPorts) (s : State) : (drive f s).events = s.events := rfl
@[simp] theorem drive_busLog (f : InPorts → InPorts) (s : State) : (drive f s).busLog = s.busLog := rfl
@[simp] theorem drive_reports (f : InPorts → InPorts) (s : State) : (drive f s).reports = s.reports := rfl

@[simp] theorem logCall_cfg (c : BusCall) (s : State) : (logCall c s).cfg = s.cfg := rfl
@[simp] theorem logCall_inp (c : BusCall) (s : State) : (logCall c s).inp = s.inp := rfl
@[simp] theorem logCall_result (c : BusCall) (s : State) : (logCall c s).result = s.result := rfl
@[simp] theorem logCall_txnState (c : BusCall) (s : State) : (logCall c s).txnState = s.txnState := rfl
@[simp] theorem logCall_current (c : BusCall) (s : State) : (logCall c s).current = s.current := rfl
@[simp] theorem logCall_sweep (c : BusCall) (s : State) : (logCall c s).sweep = s.sweep := rfl
@[simp] theorem logCall_stop (c : BusCall) (s : State) : (logCall c s).stop = s.stop := rfl
@[simp] theorem logCall_selectedPeer (c : BusCall) (s : State) : (logCall c s).selectedPeer = s.selectedPeer := rfl
@[simp] theorem logCall_port (c : BusCall) (s : State) : (logCall c s).port = s.port := rfl
@[simp] theorem logCall_session (c : BusCall) (s : State) : (logCall c s).session = s.session := rfl
@[simp] theorem logCall_help (c : BusCall) (s : State) : (logCall c s).help = s.help := rfl
@[simp] theorem logCall_program (c : BusCall) (s : State) : (logCall c s).program = s.program := rfl
@[simp] theorem logCall_events (c : BusCall) (s : State) : (logCall c s).events = s.events := rfl
@[simp] theorem logCall_busLog (c : BusCall) (s : State) : (logCall c s).busLog = s.busLog ++ [c] := rfl
@[simp] theorem logCall_reports (c : BusCall) (s : State) : (logCall c s).reports = s.reports := rfl

@[simp] theorem report_cfg (r : Report) (s : State) : (report r s).cfg = s.cfg := rfl
@[simp] theorem report_inp (r : Report) (s : State) : (report r s).inp = s.inp := rfl
@[simp] theorem report_result (r : Report) (s : State) : (report r s).result = s.result := rfl
@[simp] theorem report_txnState (r : Report) (s : State) : (report r s).txnState = s.txnState := rfl
@[simp] theorem report_current (r : Report) (s : State) : (report r s).current = s.current := rfl
@[simp] theorem report_sweep (r : Report) (s : State) : (report r s).sweep = s.sweep := rfl
@[simp] theorem report_stop (r : Report) (s : State) : (report r s).stop = s.stop := rfl
@[simp] theorem report_selectedPeer (r : Report) (s : State) : (report r s).selectedPeer = s.selectedPeer := rfl
@[simp] theorem report_port (r : Report) (s : State) : (report r s).port = s.port := rfl
@[simp] theorem report_session (r : Report) (s : State) : (report r s).session = s.session := rfl
@[simp] theorem report_help (r : Report) (s : State) : (report r s).help = s.help := rfl
@[simp] theorem report_program (r : Report) (s : State) : (report r s).program = s.program := rfl
@[simp] theorem report_events (r : Report) (s : State) : (report r s).events = s.events := rfl
@[simp] theorem report_busLog (r : Report) (s : State) : (report r s).busLog = s.busLog := rfl
@[simp] theorem report_reports (r : Report) (s : State) : (report r s).reports = s.reports ++ [r] := rfl

@[simp] theorem setTxn_cfg (x : TxnState) (s : State) : (setTxn x s).cfg = s.cfg := rfl
@[simp] theorem setTxn_inp (x : TxnState) (s : State) : (setTxn x s).inp = s.inp := rfl
@[simp] theorem setTxn_result (x : TxnState) (s : State) : (setTxn x s).result = s.result := rfl
@[simp] theorem setTxn_txnState (x : TxnState) (s : State) : (setTxn x s).txnState = x := rfl
@[simp] theorem setTxn_current (x : TxnState) (s : State) : (setTxn x s).current = s.current := rfl
@[simp] theorem setTxn_sweep (x : TxnState) (s : State) : (setTxn x s).sweep = s.sweep := rfl
@[simp] theorem setTxn_stop (x : TxnState) (s : State) : (setTxn x s).stop = s.stop := rfl
@[simp] theorem setTxn_selectedPeer (x : TxnState) (s : State) : (setTxn x s).selectedPeer = s.selectedPeer := rfl
@[simp] theorem setTxn_port (x : TxnState) (s : State) : (setTxn x s).port = s.port := rfl
@[simp] theorem setTxn_session (x : TxnState) (s : State) : (setTxn x s).session = s.session := rfl
@[simp] theorem setTxn_help (x : TxnState) (s : State) : (setTxn x s).help = s.help := rfl
@[simp] theorem setTxn_program (x : TxnState) (s : State) : (setTxn x s).program = s.program := rfl
@[simp] theorem setTxn_events (x : TxnState) (s : State) : (setTxn x s).events = s.events := rfl
@[simp] theorem setTxn_busLog (x : TxnState) (s : State) : (setTxn x s).busLog = s.busLog := rfl
@[simp] theorem setTxn_reports (x : TxnState) (s : State) : (setTxn x s).reports = s.reports := rfl

@[simp] theorem setCurrent_cfg (c : Option Txn) (s : State) : (setCurrent c s).cfg = s.cfg := rfl
@[simp] theorem setCurrent_inp (c : Option Txn) (s : State) : (setCurrent c s).inp = s.inp := rfl
@[simp] theorem setCurrent_result (c : Option Txn) (s : State) : (setCurrent c s).result = s.result := rfl
@[simp] theorem setCurrent_txnState (c : Option Txn) (s : State) : (setCurrent c s).txnState = s.txnState := rfl
@[simp] theorem setCurrent_current (c : Option Txn) (s : State) : (setCurrent c s).current = c := rfl
@[simp] theorem setCurrent_sweep (c : Option Txn) (s : State) : (setCurrent c s).sweep = s.sweep := rfl
@[simp] theorem setCurrent_stop (c : Option Txn) (s : State) : (setCurrent c s).stop = s.stop := rfl
@[simp] theorem setCurrent_selectedPeer (c : Option Txn) (s : State) : (setCurrent c s).selectedPeer = s.selectedPeer := rfl
@[simp] theorem setCurrent_port (c : Option Txn) (s : State) : (setCurrent c s).port = s.port := rfl
@[simp] theorem setCurrent_session (c : Option Txn) (s : State) : (setCurrent c s).session = s.session := rfl
@[simp] theorem setCurrent_help (c : Option Txn) (s : State) : (setCurrent c s).help = s.help := rfl
@[simp] theorem setCurrent_program (c : Option Txn) (s : State) : (setCurrent c s).program = s.program := rfl
@[simp] theorem setCurrent_events (c : Option Txn) (s : State) : (setCurrent c s).events = s.events := rfl
@[simp] theorem setCurrent_busLog (c : Option Txn) (s : State) : (setCurrent c s).busLog = s.busLog := rfl
@[simp] theorem setCurrent_reports (c : Option Txn) (s : State) : (setCurrent c s).reports = s.reports := rfl

@[simp] theorem setEvents_cfg (es : List Event) (s : State) : (setEvents es s).cfg = s.cfg := rfl
@[simp] theorem setEvents_inp (es : List Event) (s : State) : (setEvents es s).inp = s.inp := rfl
@[simp] theorem setEvents_result (es : List Event) (s : State) : (setEvents es s).result = s.result := rfl
@[simp] theorem setEvents_txnState (es : List Event) (s : State) : (setEvents es s).txnState = s.txnState := rfl
@[simp] theorem setEvents_current (es : List Event) (s : State) : (setEvents es s).current = s.current := rfl
@[simp] theorem setEvents_sweep (es : List Event) (s : State) : (setEvents es s).sweep = s.sweep := rfl
@[simp] theorem setEvents_stop (es : List Event) (s : State) : (setEvents es s).stop = s.stop := rfl
@[simp] theorem setEvents_selectedPeer (es : List Event) (s : State) : (setEvents es s).selectedPeer = s.selectedPeer := rfl
@[simp] theorem setEvents_port (es : List Event) (s : State) : (setEvents es s).port = s.port := rfl
@[simp] theorem setEvents_session (es : List Event) (s : State) : (setEvents es s).session = s.session := rfl
@[simp] theorem setEvents_help (es : List Event) (s : State) : (setEvents es s).help = s.help := rfl
@[simp] theorem setEvents_program (es : List Event) (s : State) : (setEvents es s).program = s.program := rfl
@[simp] theorem setEvents_events (es : List Event) (s : State) : (setEvents es s).events = es := rfl
@[simp] theorem setEvents_busLog (es : List Event) (s : State) : (setEvents es s).busLog = s.busLog := rfl
@[simp] theorem setEvents_reports (es : List Event) (s : State) : (setEvents es s).reports = s.reports := rfl

@[simp] theorem setPeer_cfg (a : Int) (s : State) : (setPeer a s).cfg = s.cfg := rfl
@[simp] theorem setPeer_inp (a : Int) (s : State) : (setPeer a s).inp = s.inp := rfl
@[simp] theorem setPeer_result (a : Int) (s : State) : (setPeer a s).result = s.result := rfl
@[simp] theorem setPeer_txnState (a : Int) (s : State) : (setPeer a s).txnState = s.txnState := rfl
@[simp] theorem setPeer_current (a : Int) (s : State) : (setPeer a s).current = s.current := rfl
@[simp] theorem setPeer_sweep (a : Int) (s : State) : (setPeer a s).sweep = s.sweep := rfl
@[simp] theorem setPeer_stop (a : Int) (s : State) : (setPeer a s).stop = s.stop := rfl
@[simp] theorem setPeer_selectedPeer (a : Int) (s : State) : (setPeer a s).selectedPeer = a := rfl
@[simp] theorem setPeer_port (a : Int) (s : State) : (setPeer a s).port = s.port := rfl
@[simp] theorem setPeer_session (a : Int) (s : State) : (setPeer a s).session = s.session := rfl
@[simp] theorem setPeer_help (a : Int) (s : State) : (setPeer a s).help = s.help := rfl
@[simp] theorem setPeer_program (a : Int) (s : State) : (setPeer a s).program = s.program := rfl
@[simp] theorem setPeer_events (a : Int) (s : State) : (setPeer a s).events = s.events := rfl
@[simp] theorem setPeer_busLog (a : Int) (s : State) : (setPeer a s).busLog = s.busLog := rfl
@[simp] theorem setPeer_reports (a : Int) (s : State) : (setPeer a s).reports = s.reports := rfl

@[simp] theorem setPort_cfg (p : PortState) (s : State) : (setPort p s).cfg = s.cfg := rfl
@[simp] theorem setPort_inp (p : PortState) (s : State) : (setPort p s).inp = s.inp := rfl
@[simp] theorem setPort_result (p : PortState) (s : State) : (setPort p s).result = s.result := rfl
@[simp] theorem setPort_txnState (p : PortState) (s : State) : (setPort p s).txnState = s.txnState := rfl
@[simp] theorem setPort_current (p : PortState) (s : State) : (setPort p s).current = s.current := rfl
@[simp] theorem setPort_sweep (p : PortState) (s : State) : (setPort p s).sweep = s.sweep := rfl
@[simp] theorem setPort_stop (p : PortState) (s : State) : (setPort p s).stop = s.stop := rfl
@[simp] theorem setPort_selectedPeer (p : PortState) (s : State) : (setPort p s).selectedPeer = s.selectedPeer := rfl
@[simp] theorem setPort_port (p : PortState) (s : State) : (setPort p s).port = p := rfl
@[simp] theorem setPort_session (p : PortState) (s : State) : (setPort p s).session = s.session := rfl
@[simp] theorem setPort_help (p : PortState) (s : State) : (setPort p s).help = s.help := rfl
@[simp] theorem setPort_program (p : PortState) (s : State) : (setPort p s).program = s.program := rfl
@[simp] theorem setPort_events (p : PortState) (s : State) : (setPort p s).events = s.events := rfl
@[simp] theorem setPort_busLog (p : PortState) (s : State) : (setPort p s).busLog = s.busLog := rfl
@[simp] theorem setPort_reports (p : PortState) (s : State) : (setPort p s).reports = s.reports := rfl

@[simp] theorem setSweep_cfg (w : Sweep) (s : State) : (setSweep w s).cfg = s.cfg := rfl
@[simp] theorem setSweep_inp (w : Sweep) (s : State) : (setSweep w s).inp = s.inp := rfl
@[simp] theorem setSweep_result (w : Sweep) (s : State) : (setSweep w s).result = s.result := rfl
@[simp] theorem setSweep_txnState (w : Sweep) (s : State) : (setSweep w s).txnState = s.txnState := rfl
@[simp] theorem setSweep_current (w : Sweep) (s : State) : (setSweep w s).current = s.current := rfl
@[simp] theorem setSweep_sweep (w : Sweep) (s : State) : (setSweep w s).sweep = w := rfl
@[simp] theorem setSweep_stop (w : Sweep) (s : State) : (setSweep w s).stop = s.stop := rfl
@[simp] theorem setSweep_selectedPeer (w : Sweep) (s : State) : (setSweep w s).selectedPeer = s.selectedPeer := rfl
@[simp] theorem setSweep_port (w : Sweep) (s : State) : (setSweep w s).port = s.port := rfl
@[simp] theorem setSweep_session (w : Sweep) (s : State) : (setSweep w s).session = s.session := rfl
@[simp] theorem setSweep_help (w : Sweep) (s : State) : (setSweep w s).help = s.help := rfl
@[simp] theorem setSweep_program (w : Sweep) (s : State) : (setSweep w s).program = s.program := rfl
@[simp] theorem setSweep_events (w : Sweep) (s : State) : (setSweep w s).events = s.events := rfl
@[simp] theorem setSweep_busLog (w : Sweep) (s : State) : (setSweep w s).busLog = s.busLog := rfl
@[simp] theorem setSweep_reports (w : Sweep) (s : State) : (setSweep w s).reports = s.reports := rfl

@[simp] theorem setHelp_cfg (h : Option Nat) (s : State) : (setHelp h s).cfg = s.cfg := rfl
@[simp] theorem setHelp_inp (h : Option Nat) (s : State) : (setHelp h s).inp = s.inp := rfl
@[simp] theorem setHelp_result (h : Option Nat) (s : State) : (setHelp h s).result = s.result := rfl
@[simp] theorem setHelp_txnState (h : Option Nat) (s : State) : (setHelp h s).txnState = s.txnState := rfl
@[simp] theorem setHelp_current (h : Option Nat) (s : State) : (setHelp h s).current = s.current := rfl
@[simp] theorem setHelp_sweep (h : Option Nat) (s : State) : (setHelp h s).sweep = s.sweep := rfl
@[simp] theorem setHelp_stop (h : Option Nat) (s : State) : (setHelp h s).stop = s.stop := rfl
@[simp] theorem setHelp_selectedPeer (h : Option Nat) (s : State) : (setHelp h s).selectedPeer = s.selectedPeer := rfl
@[simp] theorem setHelp_port (h : Option Nat) (s : State) : (setHelp h s).port = s.port := rfl
@[simp] theorem setHelp_session (h : Option Nat) (s : State) : (setHelp h s).session = s.session := rfl
@[simp] theorem setHelp_help (h : Option Nat) (s : State) : (setHelp h s).help = h := rfl
@[simp] theorem setHelp_program (h : Option Nat) (s : State) : (setHelp h s).program = s.program := rfl
@[simp] theorem setHelp_events (h : Option Nat) (s : State) : (setHelp h s).events = s.events := rfl
@[simp] theorem setHelp_busLog (h : Option Nat) (s : State) : (setHelp h s).busLog = s.busLog := rfl
@[simp] theorem setHelp_reports (h : Option Nat) (s : State) : (setHelp h s).reports = s.reports := rfl

@[simp] theorem endSession_cfg (e : ExitStatus) (s : State) : (endSession e s).cfg = s.cfg := rfl
@[simp] theorem endSession_inp (e : ExitStatus) (s : State) : (endSession e s).inp = s.inp := rfl
@[simp] theorem endSession_result (e : ExitStatus) (s : State) : (endSession e s).result = s.result := rfl
@[simp] theorem endSession_txnState (e : ExitStatus) (s : State) : (endSession e s).txnState = s.txnState := rfl
@[simp] theorem endSession_current (e : ExitStatus) (s : State) : (endSession e s).current = none := rfl
@[simp] theorem endSession_sweep (e : ExitStatus) (s : State) : (endSession e s).sweep = ⟨false, s.sweep.pos⟩ := rfl
@[simp] theorem endSession_stop (e : ExitStatus) (s : State) : (endSession e s).stop = s.stop := rfl
@[simp] theorem endSession_selectedPeer (e : ExitStatus) (s : State) : (endSession e s).selectedPeer = s.selectedPeer := rfl
@[simp] theorem endSession_port (e : ExitStatus) (s : State) : (endSession e s).port = releasedPort s.port := rfl
@[simp] theorem endSession_session (e : ExitStatus) (s : State) : (endSession e s).session = .ended e := rfl
@[simp] theorem endSession_help (e : ExitStatus) (s : State) : (endSession e s).help = none := rfl
@[simp] theorem endSession_program (e : ExitStatus) (s : State) : (endSession e s).program = s.program := rfl
@[simp] theorem endSession_events (e : ExitStatus) (s : State) : (endSession e s).events = s.events := rfl
@[simp] theorem endSession_busLog (e : ExitStatus) (s : State) : (endSession e s).busLog = s.busLog := rfl
@[simp] theorem endSession_reports (e : ExitStatus) (s : State) : (endSession e s).reports = s.reports := rfl

@[simp] theorem terminateSession_cfg (s : State) : (terminateSession s).cfg = s.cfg := rfl
@[simp] theorem terminateSession_inp (s : State) : (terminateSession s).inp = s.inp := rfl
@[simp] theorem terminateSession_result (s : State) : (terminateSession s).result = s.result := rfl
@[simp] theorem terminateSession_txnState (s : State) : (terminateSession s).txnState = s.txnState := rfl
@[simp] theorem terminateSession_current (s : State) : (terminateSession s).current = s.current := rfl
@[simp] theorem terminateSession_sweep (s : State) : (terminateSession s).sweep = s.sweep := rfl
@[simp] theorem terminateSession_stop (s : State) : (terminateSession s).stop = s.stop := rfl
@[simp] theorem terminateSession_selectedPeer (s : State) : (terminateSession s).selectedPeer = s.selectedPeer := rfl
@[simp] theorem terminateSession_port (s : State) : (terminateSession s).port = releasedPort s.port := rfl
@[simp] theorem terminateSession_session (s : State) : (terminateSession s).session = .terminated := rfl
@[simp] theorem terminateSession_help (s : State) : (terminateSession s).help = s.help := rfl
@[simp] theorem terminateSession_program (s : State) : (terminateSession s).program = s.program := rfl
@[simp] theorem terminateSession_events (s : State) : (terminateSession s).events = s.events := rfl
@[simp] theorem terminateSession_busLog (s : State) : (terminateSession s).busLog = s.busLog := rfl
@[simp] theorem terminateSession_reports (s : State) : (terminateSession s).reports = s.reports := rfl

end Sys2Proof.Machine
end

