-- ==== Sys2Proof/Laws/Table.lean ====
section
/-! SUPPORT. What the Command Table's two reads and the three operations over them answer, said once each (R31, R32, R77 to
R82). -/

namespace Sys2Proof.Machine

@[simp] theorem keyOf_driveKey (k : List Byte) (p : InPorts) : keyOf (driveKey k p) = k := by
  simp [keyOf, driveKey]

/-- `find` answers a position exactly when it is the least one whose mnemonic is the key. -/
theorem find_eq_some {p : Params} {k : List Byte} {pos : Nat} :
    find p k = some pos ↔
      ∃ e, p.table[pos]? = some e ∧ e.mnemonic = k ∧
        ∀ q e', q < pos → p.table[q]? = some e' → e'.mnemonic ≠ k := by
  rw [find, List.findIdx?_eq_some_iff_getElem]
  constructor
  · rintro ⟨h, hk, hlt⟩
    refine ⟨p.table[pos], List.getElem?_eq_getElem h, by simpa using hk, ?_⟩
    intro q e' hq he'
    obtain ⟨hq', rfl⟩ := List.getElem?_eq_some_iff.mp he'
    simpa using hlt q hq
  · rintro ⟨e, he, hk, hlt⟩
    obtain ⟨h, rfl⟩ := List.getElem?_eq_some_iff.mp he
    exact ⟨h, by simpa using hk, fun j hj => by
      simpa using hlt j _ hj (List.getElem?_eq_getElem (by omega))⟩

/-- `find` answers none exactly when no entry has the key. -/
theorem find_eq_none {p : Params} {k : List Byte} :
    find p k = none ↔ ∀ e ∈ p.table, e.mnemonic ≠ k := by
  simp [find, List.findIdx?_eq_none_iff]

/-- The entry at a found position exists. -/
theorem tableRead_of_find {p : Params} {k : List Byte} {pos : Nat} (h : find p k = some pos) :
    ∃ e, tableRead p pos = some e ∧ e.mnemonic = k := by
  obtain ⟨e, he, hk, -⟩ := find_eq_some.mp h
  exact ⟨e, he, hk⟩

theorem lookup_of_find_none {p : Params} {k : List Byte} (h : find p k = none) :
    lookup p k = .error (.notFound k) := by
  simp [lookup, h]

theorem lookup_of_find {p : Params} {k : List Byte} {pos : Nat} {e : CommandEntry}
    (h : find p k = some pos) (he : tableRead p pos = some e) : lookup p k = .entry pos e := by
  simp [lookup, h, he]

/-- Everything LOOKUP can answer. -/
theorem lookup_cases (p : Params) (k : List Byte) :
    (find p k = none ∧ lookup p k = .error (.notFound k)) ∨
    ∃ pos e, find p k = some pos ∧ tableRead p pos = some e ∧ e.mnemonic = k ∧ lookup p k = .entry pos e := by
  cases h : find p k with
  | none => exact .inl ⟨rfl, lookup_of_find_none h⟩
  | some pos =>
    obtain ⟨e, he, hk⟩ := tableRead_of_find h
    exact .inr ⟨pos, e, rfl, he, hk, lookup_of_find h he⟩

/-- In a table with distinct mnemonics an entry is found at its own position (R24 (a)). -/
theorem find_of_nodup {p : Params} (h : (p.table.map (·.mnemonic)).Nodup) {pos : Nat} {e : CommandEntry}
    (he : p.table[pos]? = some e) : find p e.mnemonic = some pos := by
  refine find_eq_some.mpr ⟨e, he, rfl, fun q e' hq he' heq => ?_⟩
  obtain ⟨h1, rfl⟩ := List.getElem?_eq_some_iff.mp he
  obtain ⟨h2, rfl⟩ := List.getElem?_eq_some_iff.mp he'
  have := (List.nodup_iff_injective_get.mp h) (a₁ := ⟨q, by simpa using h2⟩) (a₂ := ⟨pos, by simpa using h1⟩)
    (by simpa using heq)
  simp at this; omega

/-- Everything ENC_MCU can answer. -/
theorem encMcu_cases (d : BitVec 1) (t i : Byte) (v : Value) :
    (t.toNat > 127 ∧ encMcu d t i v = .error (.outOfRange t.toNat)) ∨
    (t.toNat ≤ 127 ∧ encMcu d t i v = .frame [mcuByte0 d (t.extractLsb' 0 7), i, hiByte v, loByte v]) := by
  unfold encMcu Config.typeMax
  split
  · exact .inl ⟨‹_›, rfl⟩
  · exact .inr ⟨by omega, rfl⟩

/-- Everything ENC_DAC_WR can answer. -/
theorem encDacWr_cases (i : Byte) (c : BitVec 2) (v : Value) :
    (i.toNat > 31 ∧ encDacWr i c v = .error (.outOfRange i.toNat)) ∨
    (i.toNat ≤ 31 ∧ encDacWr i c v = .frame [dacByte0 (i.extractLsb' 0 5) 0 c, hiByte v, loByte v]) := by
  unfold encDacWr Config.dacIndexMax
  split
  · exact .inl ⟨‹_›, rfl⟩
  · exact .inr ⟨by omega, rfl⟩

/-- Everything ENC_DAC_RD can answer. -/
theorem encDacRd_cases (i : Byte) (c : BitVec 2) :
    (i.toNat > 31 ∧ encDacRd i c = .error (.outOfRange i.toNat)) ∨
    (i.toNat ≤ 31 ∧ encDacRd i c = .frame [dacByte0 (i.extractLsb' 0 5) 0 c]) := by
  unfold encDacRd Config.dacIndexMax
  split
  · exact .inl ⟨‹_›, rfl⟩
  · exact .inr ⟨by omega, rfl⟩

/-- The three forms of `encode_entry` (R81). -/
theorem encodeEntry_mcu (p : Params) {e : CommandEntry} {c : McuClass} (v : Value) (h : e.target.peripheral = .mcu c) :
    encodeEntry p e v =
      .frame [mcuByte0 (dirBit p e.direction) (typeCode p c), e.target.index, hiByte v, loByte v] := by
  have ht : ((typeCode p c).setWidth 8).toNat ≤ 127 := by
    have := (typeCode p c).isLt
    simp; omega
  rcases encMcu_cases (dirBit p e.direction) ((typeCode p c).setWidth 8) e.target.index v with h' | h'
  · omega
  · simp [encodeEntry, h, h'.2]

theorem encodeEntry_dac_write (p : Params) {e : CommandEntry} (v : Value) (h : e.target.peripheral = .dac)
    (hd : e.direction = .write) : encodeEntry p e v = encDacWr e.target.index p.dacCtrlWr v := by
  simp [encodeEntry, h, hd, dacCtrlCode]

theorem encodeEntry_dac_read (p : Params) {e : CommandEntry} (v : Value) (h : e.target.peripheral = .dac)
    (hd : e.direction = .read) : encodeEntry p e v = encDacRd e.target.index p.dacCtrlRd := by
  simp [encodeEntry, h, hd, dacCtrlCode]

/-- `encode_entry` answers a frame or OutOfRange. -/
theorem encodeEntry_cases (p : Params) (e : CommandEntry) (v : Value) :
    (∃ f, encodeEntry p e v = .frame f) ∨
    (e.target.peripheral = .dac ∧ e.target.index.toNat > 31 ∧
      encodeEntry p e v = .error (.outOfRange e.target.index.toNat)) := by
  cases h : e.target.peripheral with
  | mcu c => exact .inl ⟨_, encodeEntry_mcu p v h⟩
  | dac =>
    cases hd : e.direction with
    | write =>
      rw [encodeEntry_dac_write p v h hd]
      rcases encDacWr_cases e.target.index p.dacCtrlWr v with h' | h'
      · exact .inr ⟨rfl, h'.1, h'.2⟩
      · exact .inl ⟨_, h'.2⟩
    | read =>
      rw [encodeEntry_dac_read p v h hd]
      rcases encDacRd_cases e.target.index p.dacCtrlRd with h' | h'
      · exact .inr ⟨rfl, h'.1, h'.2⟩
      · exact .inl ⟨_, h'.2⟩

/-- Everything ENC_CMD can answer (R82). -/
theorem encCmd_cases (p : Params) (k : List Byte) (v : Value) :
    (find p k = none ∧ encCmd p k v = .error (.notFound k)) ∨
    ∃ pos e, find p k = some pos ∧ tableRead p pos = some e ∧ e.mnemonic = k ∧ lookup p k = .entry pos e ∧
      ((∃ f, encodeEntry p e v = .frame f ∧ encCmd p k v = .command pos e f (respLen (peerOf e.target.peripheral))) ∨
       (e.target.peripheral = .dac ∧ e.target.index.toNat > 31 ∧
          encCmd p k v = .error (.outOfRange e.target.index.toNat))) := by
  rcases lookup_cases p k with ⟨hf, hl⟩ | ⟨pos, e, hf, he, hk, hl⟩
  · exact .inl ⟨hf, by simp [encCmd, hl]⟩
  · refine .inr ⟨pos, e, hf, he, hk, hl, ?_⟩
    rcases encodeEntry_cases p e v with ⟨f, hf'⟩ | ⟨h1, h2, h3⟩
    · exact .inl ⟨f, hf', by simp [encCmd, hl, hf']⟩
    · exact .inr ⟨h1, h2, by simp [encCmd, hl, h3]⟩

end Sys2Proof.Machine
end

