-- ==== Sys2Proof/Laws/Engine.lean ====
section
/-! SUPPORT. What each shared operation of the engine can do, said once: the fields it keeps, and the cases it has. -/

namespace Sys2Proof.Machine

/-! The operations of the block on the ports: only the result changes. -/

theorem encMcuOp_eq (s : State) : encMcuOp s = ret (encMcu s.inp.dir s.inp.ptype s.inp.index s.inp.value) s := rfl
theorem decMcuOp_eq (s : State) : decMcuOp s = ret (.value (decMcu s.inp.rx2 s.inp.rx3)) s := rfl
theorem encDacWrOp_eq (s : State) : encDacWrOp s = ret (encDacWr s.inp.index s.inp.ctrl s.inp.value) s := rfl
theorem encDacRdOp_eq (s : State) : encDacRdOp s = ret (encDacRd s.inp.index s.inp.ctrl) s := rfl
theorem decDacOp_eq (s : State) : decDacOp s = ret (.value (decDac s.inp.rx0 s.inp.rx1)) s := rfl
theorem lookupOp_eq (s : State) : lookupOp s = ret (lookup s.cfg (keyOf s.inp)) s := rfl
theorem listOp_eq (s : State) : listOp s = ret (listAt s.cfg s.inp.pos) s := rfl
theorem encCmdOp_eq (s : State) : encCmdOp s = ret (encCmd s.cfg (keyOf s.inp) s.inp.value) s := rfl

/-! The sweep's move to the next position: only the sweep and, for its wait, the record change. -/

/-- Where the sweep goes after an entry. -/
theorem sweepAdvance_eq (s : State) : sweepAdvance s = setSweep (sweepNext s) s := by
  unfold sweepAdvance sweepNext
  split <;> rfl

/-- The wait, then the move. -/
theorem sweepAfterEntry_eq (s : State) :
    sweepAfterEntry s = setSweep (sweepNext s) (logCall (.delay Config.sweepPeriod s.cfg.table.length) s) := by
  unfold sweepAfterEntry
  rw [sweepAdvance_eq]
  rfl

/-- Where the sweep goes depends on the stop request, the parameters and the cursor only. -/
theorem sweepNext_congr {s u : State} (h1 : u.stop = s.stop) (h2 : u.cfg = s.cfg) (h3 : u.sweep = s.sweep) :
    sweepNext u = sweepNext s := by
  simp [sweepNext, h1, h2, h3]

/-- The three things a transaction's end leads to: nothing more, the session's end, or the sweep's next position. -/
theorem afterTxn_cases (who : Caller) (ok : Bool) (s : State) :
    (afterTxn who ok s = s ∧ ok = true ∧ ∀ pos e, who ≠ .sweep pos e) ∨
    (∃ x, afterTxn who ok s = endSession x s ∧ (ok = false → x = .failure) ∧ ∀ pos e, who ≠ .sweep pos e) ∨
    (∃ pos e, who = .sweep pos e ∧ afterTxn who ok s = sweepAfterEntry s) := by
  cases who <;> cases ok
  case oneShot.true => exact .inr (.inl ⟨.success, rfl, by simp, by simp⟩)
  all_goals simp [afterTxn]

/-- A rejected request is reported; then nothing more, the session's end, or the sweep's next position. -/
theorem reject_cases (who : Caller) (e : Err) (s : State) :
    (reject who e s = report (.failure who e) s ∧ (who = .direct ∨ who = .line)) ∨
    (who = .oneShot ∧ reject who e s = endSession Config.oneShotRejectExit (report (.failure who e) s)) ∨
    (∃ pos x, who = .sweep pos x ∧ reject who e s = sweepAfterEntry (report (.failure who e) s)) := by
  cases who <;> simp [reject]

/-- What begins, is rejected, or is ignored, by the result on the ports. -/
theorem launch_cases (peer : Peer) (who : Caller) (s : State) :
    (∃ f, (s.result = some (.frame f) ∨ ∃ pos e n, s.result = some (.command pos e f n)) ∧
      launch peer who s = beginTxn peer f who s) ∨
    (∃ e, s.result = some (.error e) ∧ launch peer who s = reject who e (setTxn .idle s)) ∨
    launch peer who s = s := by
  unfold launch
  split <;> simp_all

@[simp] theorem launch_frame (peer : Peer) (who : Caller) (f : Frame) (s : State) :
    launch peer who (ret (.frame f) s) = beginTxn peer f who (ret (.frame f) s) := rfl

@[simp] theorem launch_command (peer : Peer) (who : Caller) (pos : Nat) (e : CommandEntry) (f : Frame) (n : Nat)
    (s : State) : launch peer who (ret (.command pos e f n) s) = beginTxn peer f who (ret (.command pos e f n) s) := rfl

@[simp] theorem launch_error (peer : Peer) (who : Caller) (e : Err) (s : State) :
    launch peer who (ret (.error e) s) = reject who e (setTxn .idle (ret (.error e) s)) := rfl

/-- A request is sent only where one may be, and then begins on what its encoder answers. -/
theorem sendRequest_next {peer : Peer} {op : State → State} {s u : State} (h : sendRequest peer op s = .next u) :
    s.session = .running ∧ s.current = none ∧ s.port = .opened ∧ u = launch peer .direct (op s) := by
  unfold sendRequest at h
  split at h <;> try cases h
  split at h <;> try cases h
  split at h <;> cases h
  exact ⟨‹_›, ‹_›, ‹_›, rfl⟩

theorem sendRequest_running {peer : Peer} {op : State → State} {s : State} (hr : s.session = .running)
    (hc : s.current = none) (hp : s.port = .opened) : sendRequest peer op s = .next (launch peer .direct (op s)) := by
  simp [sendRequest, hr, hc, hp]

/-- A response frame completes the read that awaits it, and changes nothing otherwise. -/
theorem receiveFrame_cases (peer : Peer) (bytes : Frame) (s : State) :
    ((∃ t, s.session = .running ∧ s.current = some t ∧ t.peer = peer ∧ s.txnState = .settled) ∧
      receiveFrame peer bytes s =
        setTxn .readComplete (logCall (.read s.selectedPeer bytes.length (some bytes)) s)) ∨
    (¬ (∃ t, s.session = .running ∧ s.current = some t ∧ t.peer = peer ∧ s.txnState = .settled) ∧
      receiveFrame peer bytes s = s) := by
  unfold receiveFrame
  split
  · rename_i h; exact .inr ⟨by simp [h], rfl⟩
  · rename_i t h
    split
    · rename_i h'; exact .inl ⟨⟨t, h'.1, h, h'.2.1, h'.2.2⟩, rfl⟩
    · rename_i h'
      refine .inr ⟨?_, rfl⟩
      rintro ⟨t', h1, h2, h3, h4⟩
      rw [h] at h2; cases h2
      exact h' ⟨h1, h3, h4⟩

/-- `encode_entry` on the ports returns what `encode_entry` answers, and changes only the result and ports other than the
key. -/
theorem encodeEntryOp_eq (e : CommandEntry) (v : Value) (s : State) :
    ∃ f, encodeEntryOp e v s = ret (encodeEntry s.cfg e v) (drive f s) ∧
      ∀ p, (f p).key = p.key ∧ (f p).keyLen = p.keyLen := by
  cases h : e.target.peripheral with
  | mcu c =>
    exact ⟨driveMcu (dirBit s.cfg e.direction) ((typeCode s.cfg c).setWidth 8) e.target.index v, by
      simp [encodeEntryOp, encodeEntry, h, encMcuOp_eq, driveMcu], fun _ => ⟨rfl, rfl⟩⟩
  | dac =>
    cases hd : e.direction with
    | write =>
      exact ⟨driveDacWr e.target.index (dacCtrlCode s.cfg .write) v, by
        simp [encodeEntryOp, encodeEntry, h, hd, encDacWrOp_eq, driveDacWr], fun _ => ⟨rfl, rfl⟩⟩
    | read =>
      exact ⟨driveDacRd e.target.index (dacCtrlCode s.cfg .read), by
        simp [encodeEntryOp, encodeEntry, h, hd, encDacRdOp_eq, driveDacRd], fun _ => ⟨rfl, rfl⟩⟩

/-- Step 6 drives the decoder's code, returns the value its peer's decoder gives, and finishes the transaction. -/
theorem decodeStep_eq (t : Txn) (s : State) :
    ∃ c v, decodeStep t s = finishTxn t v (ret (.value v) (drive (driveOp c) s)) ∧
      (t.peer = .mcu → v = joinBytes s.inp.rx2 s.inp.rx3) ∧ (t.peer = .dac → v = joinBytes s.inp.rx0 s.inp.rx1) := by
  unfold decodeStep
  cases t.peer with
  | mcu => exact ⟨1, _, rfl, fun _ => rfl, by simp⟩
  | dac => exact ⟨4, _, rfl, by simp, fun _ => rfl⟩

/-- Opening the Bus Port: it waits, it opens, or the session ends with failure. -/
theorem openStep_next {s u : State} (h : openStep s = .next u) :
    u = s ∨ (∃ es, u = setPort .opened (setEvents es s)) ∨
      ∃ es, u = endSession .failure (report .openFailed (setEvents es s)) := by
  unfold openStep at h
  split at h <;> cases h
  · exact .inl rfl
  · exact .inr (.inl ⟨_, rfl⟩)
  · exact .inr (.inr ⟨_, rfl⟩)

/-- Whatever is given for an evaluation, ports of the shape stay so. -/
theorem fitPorts_fits {c : Params} {p old : InPorts} (h : PortsFit c old) : PortsFit c (fitPorts c p old) := by
  obtain ⟨h1, h2⟩ := h
  refine ⟨by simp [fitPorts]; omega, ?_⟩
  change (if p.keyLen ≤ c.mnemMax then p.keyLen else old.keyLen) ≤ c.mnemMax
  split <;> assumption

/-- Values of the ports' shape are taken as they are. -/
theorem fitPorts_eq {c : Params} {p old : InPorts} (h : PortsFit c p) : fitPorts c p old = p := by
  simp only [fitPorts, if_pos h.2]
  simp [← h.1]

/-- A key given in full, and not too long, is the key that stands on the ports. -/
theorem keyOf_fitPorts {c : Params} {p old : InPorts} (h1 : p.keyLen ≤ c.mnemMax) (h2 : p.keyLen ≤ p.key.length) :
    keyOf (fitPorts c p old) = p.key.take p.keyLen := by
  simp [keyOf, fitPorts, h1, List.take_take, List.take_append_of_le_length h2]

/-- A key that fits the ports leaves them in their shape. -/
theorem driveKey_fits {p : Params} {i : InPorts} {k : List Byte} (h : PortsFit p i) (hk : k.length ≤ p.mnemMax) :
    PortsFit p (driveKey k i) := by
  refine ⟨?_, hk⟩
  have := h.1
  simp [driveKey]; omega

/-- The first integer that does not fit, if any. -/
theorem firstMisfit_none {l : List (Int × Nat)} :
    firstMisfit l = none ↔ ∀ x ∈ l, 0 ≤ x.1 ∧ x.1 ≤ (x.2 : Int) := by
  induction l with
  | nil => simp [firstMisfit]
  | cons x l ih =>
    obtain ⟨n, b⟩ := x
    by_cases h : 0 ≤ n ∧ n ≤ (b : Int)
    · simp [firstMisfit, h, ih]
    · simp only [firstMisfit, h, if_false]
      simp; intro h1 h2; exact absurd ⟨h1, h2⟩ h

end Sys2Proof.Machine
end

