-- ==== Sys2Proof/Laws/PerInstr.lean ====
section
/-! SUPPORT. Per-instruction facts about the syntax: how many bytes an instruction's word has (R46, R56), by case. -/

namespace Sys2Proof.Laws.FrameLength

/-- The interface and the length that rules R46 and R56 give a row: the `op` port takes one code; the frames have 4, 4, 3, 1
and 2 bytes. -/
def format : Instr → Channel × Nat
  | .mcuReq _ _ _ _ => (.hostToMcu, Config.mcuReqLen)
  | .mcuRsp _ _ _ => (.mcuToHost, Config.mcuRspLen)
  | .dacWr _ _ _ _ => (.hostToDac, Config.dacWrLen)
  | .dacRd _ _ _ => (.hostToDac, Config.dacRdLen)
  | .dacRsp _ => (.dacToHost, Config.dacRspLen)
  | .encMcu | .decMcu | .encDacWr | .encDacRd | .decDac | .lookup | .list | .encCmd => (.opPort, 1)

/-- The encoder puts an instruction on its interface with its format's number of bytes. -/
def Statement (i : Instr) : Prop := ((encode i).1, (encode i).2.length) = format i

theorem encMcu : Statement .encMcu := rfl
theorem decMcu : Statement .decMcu := rfl
theorem encDacWr : Statement .encDacWr := rfl
theorem encDacRd : Statement .encDacRd := rfl
theorem decDac : Statement .decDac := rfl
theorem lookup : Statement .lookup := rfl
theorem list : Statement .list := rfl
theorem encCmd : Statement .encCmd := rfl
theorem mcuReq (d : BitVec 1) (t : BitVec 7) (i : Byte) (v : Value) : Statement (.mcuReq d t i v) := rfl
theorem mcuRsp (p0 p1 : Byte) (v : Value) : Statement (.mcuRsp p0 p1 v) := rfl
theorem dacWr (r : BitVec 5) (z : BitVec 1) (c : BitVec 2) (v : Value) : Statement (.dacWr r z c v) := rfl
theorem dacRd (r : BitVec 5) (z : BitVec 1) (c : BitVec 2) : Statement (.dacRd r z c) := rfl
theorem dacRsp (v : Value) : Statement (.dacRsp v) := rfl

end Sys2Proof.Laws.FrameLength
end

