-- ==== Sys2Proof/Tests/Slice0.lean ====
section
/-! SUPPORT. Tests, each expected value taken from the spec (the vector's name is in the test's comment), and for every
statement with hypotheses a concrete state that meets them. The tests of an open parameter use REF (R8). -/

namespace Sys2Proof.Tests

open Sys2Proof.Machine

/-! ## Small states -/

/-- The reset state of an instance with the reference configuration, its Bus Port opened. -/
def base : State :=
  { State.reset with cfg := Config.ref, inp := InPorts.reset Config.ref, selectedPeer := 0, port := .opened }

/-- `base` with these ports. -/
def withPorts (f : InPorts → InPorts) : State := drive f base

/-- `base` with a transaction in flight in this state, and these events. -/
def flying (t : Txn) (x : TxnState) (es : List Event) : State :=
  { base with current := some t, txnState := x, events := es }

/-- `base` with the transaction's peer selected, and the calls that led to this state on record. -/
def flyingSelected (t : Txn) (x : TxnState) (calls : List BusCall) (es : List Event) : State :=
  { flying t x es with selectedPeer := peerAddr Config.ref t.peer, busLog := calls }

/-- `base` about to do this. -/
def doing (c : Command) : State := { base with program := [c] }

/-- The same with the Bus Port still closed, and these events. -/
def starting (c : Command) (es : List Event) : State := { doing c with port := .closed, events := es }

/-- What an instruction returns on these ports. -/
def resultOf (i : Instr) (f : InPorts → InPorts) : Option OpResult :=
  match exec i (withPorts f) with
  | .next u => u.result
  | .fault _ => none
  | .refused _ => none

/-- One field of the next state, if there is one. -/
def after {α : Type} (f : State → α) : Host.Outcome State Fault Refusal → Option α
  | .next u => some (f u)
  | .fault _ => none
  | .refused _ => none

/-- The refusal, if the outcome is one. -/
def refusalOf : Host.Outcome State Fault Refusal → Option Refusal
  | .next _ => none
  | .fault _ => none
  | .refused r => some r

/-- AR2, a Read entry of REF, by the microcontroller codec (vector K4). -/
def ar2Frame : Frame := [0x03, 0x02, 0x00, 0x00]

/-- The transaction of the line AR2 (vector T1). -/
def ar2 : Txn := ⟨.mcu, ar2Frame, .line⟩

/-- The transaction of an explicit read of DAC register 5 (vector T4). -/
def dr5 : Txn := ⟨.dac, [0x2A], .direct⟩

/-- The entry of ST in REF, position 4. -/
def stEntry : CommandEntry :=
  ⟨[0x53, 0x54], .read, ⟨.mcu .status, 0⟩, [0x73, 0x74, 0x61, 0x74, 0x75, 0x73]⟩

/-- The entry of GW0 in REF, position 0. -/
def gw0Entry : CommandEntry :=
  ⟨[0x47, 0x57, 0x30], .write, ⟨.mcu .gpio, 0⟩,
    [0x67, 0x70, 0x69, 0x6F, 0x30, 0x20, 0x77, 0x72, 0x69, 0x74, 0x65]⟩

/-- A one-shot transaction (vector T13). -/
def shot : Txn := ⟨.mcu, [0x89, 0x00, 0x00, 0x05], .oneShot⟩

/-- The sweep's transaction for ST (program P4, polled entry 3). -/
def stSweep : Txn := ⟨.mcu, [0x04, 0x00, 0x00, 0x00], .sweep 4 stEntry⟩

/-- REF's parameters with three entries, two of them out of the DAC's range: an ill-formed table (U11). -/
def badTable : Params :=
  { Config.ref with table := [⟨[0x44, 0x57], .write, ⟨.dac, 32⟩, []⟩, ⟨[0x44, 0x52], .read, ⟨.dac, 31⟩, []⟩,
      ⟨[0x44, 0x58], .read, ⟨.dac, 255⟩, []⟩] }

/-- `base` with that table. -/
def badBase : State := { base with cfg := badTable }

/-! ## Well-formedness -/

/-- R60: the reserved bit of a DAC request is 0; a term with it set is refused. -/
theorem test_wf_dacWr_reserved : (Instr.dacWr 5 1 0b01 0xBEEF).wf = false ∧ (Instr.dacWr 5 0 0b01 0xBEEF).wf = true := by
  decide

theorem test_wf_dacRd_reserved : (Instr.dacRd 5 1 0b10).wf = false ∧ (Instr.dacRd 5 0 0b10).wf = true := by decide

/-! ## Decoding, from words written out bit by bit -/

/-- R56: the eight op codes. -/
theorem test_decode_op0 : decode .opPort [0b00000000] = .ok .encMcu := by decide
theorem test_decode_op1 : decode .opPort [0b00000001] = .ok .decMcu := by decide
theorem test_decode_op2 : decode .opPort [0b00000010] = .ok .encDacWr := by decide
theorem test_decode_op3 : decode .opPort [0b00000011] = .ok .encDacRd := by decide
theorem test_decode_op4 : decode .opPort [0b00000100] = .ok .decDac := by decide
theorem test_decode_op5 : decode .opPort [0b00000101] = .ok .lookup := by decide
theorem test_decode_op6 : decode .opPort [0b00000110] = .ok .list := by decide
theorem test_decode_op7 : decode .opPort [0b00000111] = .ok .encCmd := by decide
/-- R27: op is 3 bits wide. -/
theorem test_decode_op8 : decode .opPort [0b00001000] = .error (.opTooWide 8) := by decide

/-- R47, d tttttttt iiiiiiii vvvvvvvv vvvvvvvv: D = 1, TYPE = 2, INDEX = 1, value 1000 (vector M10). -/
theorem test_decode_mcuReq :
    decode .hostToMcu [0b10000010, 0b00000001, 0b00000011, 0b11101000] = .ok (.mcuReq 1 2 1 1000) := by decide
/-- R48 (vector X6). -/
theorem test_decode_mcuRsp :
    decode .mcuToHost [0b10000001, 0b00000001, 0b00000001, 0b00000000] = .ok (.mcuRsp 0x81 0x01 256) := by decide
/-- R49, rrrrr 0 cc (vector W4: REG 16, CTRL 01). -/
theorem test_decode_dacWr :
    decode .hostToDac [0b10000001, 0b10000000, 0b00000001] = .ok (.dacWr 16 0 0b01 0x8001) := by decide
/-- R50 (vector R3). -/
theorem test_decode_dacRd : decode .hostToDac [0b11111011] = .ok (.dacRd 31 0 0b11) := by decide
/-- R51 (vector Y6). -/
theorem test_decode_dacRsp : decode .dacToHost [0b10000000, 0b00000000] = .ok (.dacRsp 0x8000) := by decide
/-- U2: bit 2 set. -/
theorem test_decode_reserved : decode .hostToDac [0b00101110] = .error (.reservedBit 0x2E) := by decide
/-- R46: no format has two bytes on the way to the DAC. -/
theorem test_decode_length : decode .hostToDac [0x29, 0xBE] = .error (.wrongLength .hostToDac 2) := by decide

/-! ## The eight operations -/

/-- Vectors M1, M4, M5, M9, M13. -/
theorem test_encMcu_frames :
    resultOf .encMcu (driveMcu 1 1 1 0x1234) = some (.frame [0x81, 0x01, 0x12, 0x34]) ∧
    resultOf .encMcu (driveMcu 1 127 255 0xFFFF) = some (.frame [0xFF, 0xFF, 0xFF, 0xFF]) ∧
    resultOf .encMcu (driveMcu 0 4 0 0xABCD) = some (.frame [0x04, 0x00, 0xAB, 0xCD]) ∧
    resultOf .encMcu (driveMcu 0 127 0 0x00FF) = some (.frame [0x7F, 0x00, 0x00, 0xFF]) ∧
    resultOf .encMcu (driveMcu 1 1 200 0) = some (.frame [0x81, 0xC8, 0x00, 0x00]) := by decide

/-- Vectors M11, M12. -/
theorem test_encMcu_range :
    resultOf .encMcu (driveMcu 0 128 0 0) = some (.error (.outOfRange 128)) ∧
    resultOf .encMcu (driveMcu 1 255 3 7) = some (.error (.outOfRange 255)) := by decide

/-- Vectors X1, X2, X6, X7. -/
theorem test_decMcu :
    resultOf .decMcu (driveRx4 0x5A 0xA5 0x12 0x34) = some (.value 0x1234) ∧
    resultOf .decMcu (driveRx4 0x00 0x00 0x12 0x34) = some (.value 0x1234) ∧
    resultOf .decMcu (driveRx4 0x81 0x01 0x01 0x00) = some (.value 256) ∧
    resultOf .decMcu (driveRx4 0x03 0x02 0x80 0x00) = some (.value 32768) := by decide

/-- Vectors W1, W2, W4, W5. -/
theorem test_encDacWr_frames :
    resultOf .encDacWr (driveDacWr 5 0b01 0xBEEF) = some (.frame [0x29, 0xBE, 0xEF]) ∧
    resultOf .encDacWr (driveDacWr 31 0b11 0xFFFF) = some (.frame [0xFB, 0xFF, 0xFF]) ∧
    resultOf .encDacWr (driveDacWr 16 0b01 0x8001) = some (.frame [0x81, 0x80, 0x01]) ∧
    resultOf .encDacWr (driveDacWr 1 0b10 0x00FF) = some (.frame [0x0A, 0x00, 0xFF]) := by decide

/-- Vectors W7, W8. -/
theorem test_encDacWr_range :
    resultOf .encDacWr (driveDacWr 32 0b01 1) = some (.error (.outOfRange 32)) ∧
    resultOf .encDacWr (driveDacWr 255 0b10 0) = some (.error (.outOfRange 255)) := by decide

/-- Vectors R1, R3, R4, R5. -/
theorem test_encDacRd_frames :
    resultOf .encDacRd (driveDacRd 5 0b10) = some (.frame [0x2A]) ∧
    resultOf .encDacRd (driveDacRd 31 0b11) = some (.frame [0xFB]) ∧
    resultOf .encDacRd (driveDacRd 16 0b10) = some (.frame [0x82]) ∧
    resultOf .encDacRd (driveDacRd 1 0b01) = some (.frame [0x09]) := by decide

/-- Vector R6. -/
theorem test_encDacRd_range : resultOf .encDacRd (driveDacRd 32 0b10) = some (.error (.outOfRange 32)) := by decide

/-- Vectors Y1, Y4, Y5. -/
theorem test_decDac :
    resultOf .decDac (driveRx2 0xBE 0xEF) = some (.value 48879) ∧
    resultOf .decDac (driveRx2 0x00 0x01) = some (.value 1) ∧
    resultOf .decDac (driveRx2 0x01 0x00) = some (.value 256) := by decide

/-- Vectors L3 and L11 (bytes past `key_len` are ignored). -/
theorem test_lookup_hit :
    resultOf .lookup (driveKey [0x53, 0x54]) = some (.entry 4 stEntry) ∧
    resultOf .lookup (fun p => { p with key := [0x53, 0x54, 0x58], keyLen := 2 }) = some (.entry 4 stEntry) := by
  decide

/-- Vectors L5, L6, L7, L8, L10. -/
theorem test_lookup_notFound :
    resultOf .lookup (driveKey [0x58, 0x59, 0x5A]) = some (.error (.notFound [0x58, 0x59, 0x5A])) ∧
    resultOf .lookup (driveKey [0x70, 0x77, 0x31]) = some (.error (.notFound [0x70, 0x77, 0x31])) ∧
    resultOf .lookup (driveKey [0x50, 0x57]) = some (.error (.notFound [0x50, 0x57])) ∧
    resultOf .lookup (driveKey [0x50, 0x57, 0x31, 0x30]) = some (.error (.notFound [0x50, 0x57, 0x31, 0x30])) ∧
    resultOf .lookup (driveKey []) = some (.error (.notFound [])) := by decide

/-- Vectors E1, E2, E4. -/
theorem test_list :
    resultOf .list (drivePos 0) = some (.entry 0 gw0Entry) ∧
    resultOf .list (drivePos 4) = some (.entry 4 stEntry) ∧
    resultOf .list (drivePos 8) = some .endOfList := by decide

/-- Vectors K1 and K5, with `tx_len` 4 and `rsp_len` 4 on the ports. -/
theorem test_encCmd_mcu :
    resultOf .encCmd (fun p => driveValue 0x1234 (driveKey [0x47, 0x57, 0x30] p)) =
      some (.command 0 gw0Entry [0x80, 0x00, 0x12, 0x34] 4) ∧
    resultOf .encCmd (driveKey [0x53, 0x54]) = some (.command 4 stEntry [0x04, 0x00, 0x00, 0x00] 4) ∧
    (outPorts Config.ref (.command 4 stEntry [0x04, 0x00, 0x00, 0x00] 4)).txLen = 4 ∧
    (outPorts Config.ref (.command 4 stEntry [0x04, 0x00, 0x00, 0x00] 4)).rspLen = some 4 := by decide

/-- Vectors K8, K10, K11. -/
theorem test_encCmd_dac :
    (resultOf .encCmd (fun p => driveValue 0x1234 (driveKey [0x44, 0x57, 0x35] p))).map (outPorts Config.ref) =
      some ⟨0, some [0x29, 0x12, 0x34], 3, none, some 1,
        some ⟨7, 1, 1, 0, 5, 3, [0x44, 0x57, 0x35], 10,
          [0x64, 0x61, 0x63, 0x35, 0x20, 0x77, 0x72, 0x69, 0x74, 0x65]⟩, some 2⟩ ∧
    ((resultOf .encCmd (fun p => driveValue 0x1234 (driveKey [0x44, 0x52, 0x35] p))).map
      (fun r => (outPorts Config.ref r).tx)) = some (some [0x2A]) ∧
    resultOf .encCmd (driveKey [0x58, 0x59, 0x5A]) = some (.error (.notFound [0x58, 0x59, 0x5A])) := by decide

/-- Vectors L2 and L4: the entry ports. -/
theorem test_entry_ports :
    ((resultOf .lookup (driveKey [0x50, 0x57, 0x31])).map (fun r => (outPorts Config.ref r).hit) = some (some 1) ∧
    (resultOf .lookup (driveKey [0x50, 0x57, 0x31])).map (fun r => (outPorts Config.ref r).entry) =
      some (some ⟨2, 1, 0, 1, 1, 3, [0x50, 0x57, 0x31], 9, [0x70, 0x77, 0x6D, 0x31, 0x20, 0x64, 0x75, 0x74, 0x79]⟩)) ∧
    (resultOf .lookup (driveKey [0x44, 0x52, 0x35])).map (fun r => (outPorts Config.ref r).entry) =
      some (some ⟨6, 0, 1, 0, 5, 3, [0x44, 0x52, 0x35], 9, [0x64, 0x61, 0x63, 0x35, 0x20, 0x72, 0x65, 0x61, 0x64]⟩) := by
  decide

/-! ## The frames as instructions -/

/-- R97, R70: the request stands at Idle, its operands on the ports (vector T2's frame). -/
theorem test_mcuReq :
    after (fun u => (u.current, u.txnState, u.inp.ptype, u.inp.index)) (exec (.mcuReq 1 1 1 0x1234) base) =
      some (some ⟨.mcu, [0x81, 0x01, 0x12, 0x34], .direct⟩, .idle, 1, 1) := by decide

/-- U7: none while one is in flight; R127: none before the Bus Port is opened. -/
theorem test_mcuReq_turned_away :
    refusalOf (exec (.mcuReq 1 1 1 0x1234) (flying ar2 .written [])) = some .transactionInFlight ∧
    refusalOf (exec (.mcuReq 1 1 1 0x1234) State.reset) = some .portNotOpen := by decide

/-- R92, vector T1's response: the awaited read is complete and 0x029A decoded. -/
theorem test_mcuRsp :
    after (fun u => (u.result, u.txnState, u.busLog))
      (exec (.mcuRsp 0x03 0x02 0x029A) (flyingSelected ar2 .settled [] [])) =
      some (some (.value 666), .readComplete, [.read 0x10 4 (some [0x03, 0x02, 0x02, 0x9A])]) := by decide

/-- R73, vector Y1: with no transaction it is only decoded. -/
theorem test_dacRsp :
    after (fun u => (u.result, u.txnState, u.busLog)) (exec (.dacRsp 0xBEEF) base) =
      some (some (.value 0xBEEF), .idle, []) := by decide

/-- R75, vector T3's frame. -/
theorem test_dacWr :
    after (fun u => (u.current, u.inp.index, u.inp.ctrl)) (exec (.dacWr 5 0 0b01 0xBEEF) base) =
      some (some ⟨.dac, [0x29, 0xBE, 0xEF], .direct⟩, 5, 0b01) := by decide

/-- U2. -/
theorem test_dacWr_reserved : refusalOf (exec (.dacWr 5 1 0b01 0xBEEF) base) = some .reservedBitSet := by decide

/-- R75, vector T4's frame. -/
theorem test_dacRd :
    after (fun u => u.current) (exec (.dacRd 5 0 0b10) base) = some (some ⟨.dac, [0x2A], .direct⟩) := by decide

/-! ## The engine and the caller, one step each -/

/-- Vector T5: a short write is BusError(write): Failed, the session over. -/
theorem test_short_write :
    after (fun u => (u.txnState, u.current, u.session, u.reports))
      (step (flyingSelected ar2 .peerSelected [.selectPeer 0x10 true] [.written (some 3)])) =
      some (.failed, none, .ended .failure, [.failure .line (.busError .write)]) := by decide

/-- Vector T7: one byte of two is BusError(read); nothing is decoded. -/
theorem test_short_read :
    after (fun u => (u.txnState, u.result, u.reports))
      (step (flyingSelected dr5 .settled [] [.received (some [0x12])])) =
      some (.failed, none, [.failure .direct (.busError .read)]) := by decide

/-- Vector T9: BusError(select). -/
theorem test_select_fails :
    after (fun u => (u.txnState, u.busLog, u.reports)) (step (flying ar2 .idle [.selected false])) =
      some (.failed, [.selectPeer 0x10 false], [.failure .line (.busError .select)]) := by decide

/-- Program P4: a failed write on ST in the sweep is reported for it alone; 1000/8 ms later it is position 5's turn. -/
theorem test_sweep_isolates :
    after (fun u => (u.session, u.sweep, u.reports, u.busLog))
      (step { flyingSelected stSweep .peerSelected [.selectPeer 0x10 true] [.written none] with sweep := ⟨true, 4⟩ }) =
      some (.running, ⟨true, 5⟩, [.failure (.sweep 4 stEntry) (.busError .write)],
        [.selectPeer 0x10 true, .write 0x10 [0x04, 0x00, 0x00, 0x00] none, .delay 1000 8]) := by decide

/-- Program P3 and vectors T10, T11: no bus call, the session still running. -/
theorem test_line_errors :
    after (fun u => (u.reports, u.session, u.busLog))
      (step (doing (.line (.command [0x58, 0x59, 0x5A] ['5'])))) =
      some ([.failure .line (.notFound [0x58, 0x59, 0x5A])], .running, []) ∧
    after (fun u => u.reports) (step (doing (.line (.command [0x50, 0x57, 0x31] ['a', 'b', 'c'])))) =
      some [.failure .line (.parseError .malformed ['a', 'b', 'c'])] ∧
    after (fun u => u.reports) (step (doing (.line (.dacWrite 32 1)))) =
      some [.failure .line (.outOfRange 32)] := by decide

/-- R127: the step that would take a line opens the port first, and the line is still to come; if that fails the process ends
with failure, no operation of the block having been used. -/
theorem test_open_first :
    (let o := step (starting (.line (.dacWrite 5 1)) [.opened true])
     after (fun u => (u.port, u.session, u.inp.op)) o = some (.opened, .running, base.inp.op) ∧
       after (fun u => u.program) o = some [.line (.dacWrite 5 1)]) ∧
    (let o := step (starting (.line (.dacWrite 5 1)) [.opened false])
     after (fun u => (u.port, u.session)) o = some (.closed, .ended .failure) ∧
       after (fun u => u.reports) o = some [.openFailed] ∧ after (fun u => u.result) o = some none) := by decide

/-- R56 and R71: `W 5 48879` drives ENC_DAC_WR's code, 2, and its operands. -/
theorem test_line_dacWrite :
    after (fun u => (u.inp.op, u.inp.index, u.inp.value, u.current)) (step (doing (.line (.dacWrite 5 48879)))) =
      some (2, 5, 0xBEEF, some ⟨.dac, [0x29, 0xBE, 0xEF], .line⟩) := by decide

/-- R77 (c): a key_len of 5 with MNEM_MAX 4 is NotFound, by the host. -/
theorem test_key_too_long :
    after (fun u => (u.reports, u.inp, u.result))
      (step (doing (.eval { base.inp with op := 5, key := [0x53, 0x54, 0x53, 0x54, 0x53], keyLen := 5 }))) =
      some ([.failure .direct (.notFound [0x53, 0x54, 0x53, 0x54, 0x53])], base.inp, none) := by decide

/-- R77 (d), vector L3: the two bytes that are the key are given, and those past them are ignored. -/
theorem test_eval_key :
    after (fun u => u.result) (step (doing (.eval { base.inp with op := 5, key := [0x53, 0x54], keyLen := 2 }))) =
      some (some (.entry 4 stEntry)) ∧
    after (fun u => u.result)
      (step (doing (.eval { base.inp with op := 5, key := [0x53, 0x54, 0, 0, 0], keyLen := 2 }))) =
      some (some (.entry 4 stEntry)) := by decide

/-- R27: ENC_MCU reads no key, so a key_len that does not fit does not matter to it (vector M1). -/
theorem test_eval_ignores_key :
    after (fun u => (u.result, u.inp.keyLen))
      (step (doing (.eval { driveMcu 1 1 1 0x1234 base.inp with key := [], keyLen := 9 }))) =
      some (some (.frame [0x81, 0x01, 0x12, 0x34]), 0) := by decide

/-- R65: `Q` ends the session with success and the port is released (R104). -/
theorem test_quit :
    after (fun u => (u.session, u.port)) (step (doing (.line .quit))) = some (.ended .success, .released) := by decide

/-- Program P1: `PW1 4660`. -/
theorem test_line_pw1 :
    after (fun u => (u.current, u.txnState))
      (step (doing (.line (.command [0x50, 0x57, 0x31] ['4', '6', '6', '0'])))) =
      some (some ⟨.mcu, [0x81, 0x01, 0x12, 0x34], .line⟩, .idle) := by decide

/-- Vectors T12 and T13: type 200 is rejected with no bus call, type 9 is legal. -/
theorem test_oneShot :
    after (fun u => (u.current, u.reports)) (step (doing (.oneShot 1 200 0 5))) =
      some (none, [.failure .oneShot (.outOfRange 200)]) ∧
    after (fun u => u.current) (step (doing (.oneShot 1 9 0 5))) =
      some (some ⟨.mcu, [0x89, 0x00, 0x00, 0x05], .oneShot⟩) := by decide

/-- Vectors V6 to V15. -/
theorem test_parse :
    parseValue ['0'] = .ok 0 ∧ parseValue ['4', '6', '6', '0'] = .ok 4660 ∧
    parseValue ['9', '9', '9', '9', '9', '9', '9', '9', '9', '9', '9', '9', '9', '9', '9', '9', '9', '9', '9', '9'] =
      .error .outOfRange ∧
    parseValue ['0', '0', '7'] = .ok 7 ∧ parseValue ['+', '5'] = .error .malformed ∧
    parseValue ['1', '2', 'a', 'b'] = .error .malformed ∧ parseValue ['-', '0'] = .error .outOfRange ∧
    parseValue ['0', 'x', '1', '0'] = .error .malformed ∧ parseValue ['-'] = .error .malformed ∧
    parseValue ['1', '.', '5'] = .error .malformed := by decide

/-- R8: REF meets R7's constraints. -/
theorem test_ref_wf : ParamsWellFormed Config.ref := by decide

/-! ## Witnesses: for each statement with hypotheses, a state that meets them -/

theorem base_ready : Ready base := ⟨rfl, (fun _ _ h => nomatch h), rfl, rfl, rfl, rfl⟩

theorem doing_ready (c : Command) : Ready (doing c) := ⟨rfl, (fun _ _ h => nomatch h), rfl, rfl, rfl, rfl⟩

theorem doing_session (c : Command) : SessionReady (doing c) := { doing_ready c with portOpen := rfl }

theorem starting_ready (c : Command) {e : Event} (h : isOutsideRequest e = false) : Ready (starting c [e]) :=
  ⟨rfl, (by rintro _ _ ⟨⟩; exact h), rfl, rfl, rfl, rfl⟩

theorem base_canSend : CanSend base := ⟨rfl, rfl, rfl⟩

/-- A state whose oldest event is no request from outside. -/
theorem no_request {e : Event} {es : List Event} (h : isOutsideRequest e = false) :
    ∀ e' es', e :: es = e' :: es' → isOutsideRequest e' = false := by
  rintro _ _ ⟨⟩; exact h

theorem witness_DecodeOfEncodeIsIdentity : (Instr.dacWr 31 0 0b11 0xFFFF).WellFormed := by decide

theorem witness_EncodeOfDecodeIsIdentity : decode .hostToDac [0xFB, 0xFF, 0xFF] = .ok (.dacWr 31 0 0b11 0xFFFF) := by
  decide

/-- At the last legal type. -/
theorem witness_McuCodecRoundTrip : (withPorts (driveMcu 1 127 255 0xFFFF)).inp.ptype.toNat ≤ 127 := by decide

theorem witness_EncMcuInjective : (127 : Byte).toNat ≤ 127 ∧ encMcu 1 127 255 7 = encMcu 1 127 255 7 := by decide

/-- Both clauses, at the boundary. -/
theorem witness_DacCodecRoundTrip :
    (withPorts (driveDacWr 31 0b01 0xBEEF)).inp.index.toNat ≤ 31 ∧
    (withPorts (driveDacWr 32 0b01 0xBEEF)).inp.index = 32 := by decide

theorem witness_ReadTriggerIsByteZeroOfWrite : (31 : Byte).toNat ≤ 31 := by decide

/-- Two different states with equal ports and parameters. -/
theorem witness_OperationsArePure :
    base.inp = (flying ar2 .written []).inp ∧ base.cfg = (flying ar2 .written []).cfg ∧
    base ≠ flying ar2 .written [] := ⟨rfl, rfl, fun h => nomatch congrArg State.current h⟩

theorem witness_BlockStatusIsOkOrTwoErrors : exec (opInstr 4) base = .next (decDacOp base) := rfl

theorem witness_TxLenMatchesFrame : exec (opInstr 0) base = .next (encMcuOp base) := rfl

/-- Each clause of OutputPortsShowResult: a key that is an entry's, Mcu and Dac (at its last legal index, and past it); one that is
none; the last position; the first past it. -/
theorem witness_OutputPortsShowResult :
    (find Config.ref (keyOf (withPorts (driveKey [0x53, 0x54])).inp) = some 4 ∧
      Config.ref.table[4]? = some stEntry ∧ stEntry.target.peripheral ≠ .dac) ∧
    (find badTable [0x44, 0x52] = some 1 ∧
      badTable.table[1]?.map (fun e => e.target) = some ⟨.dac, 31⟩) ∧
    (find badTable [0x44, 0x57] = some 0 ∧
      badTable.table[0]?.map (fun e => e.target) = some ⟨.dac, 32⟩) ∧
    find base.cfg (keyOf base.inp) = none ∧
    (withPorts (drivePos 4)).cfg.table[(withPorts (drivePos 4)).inp.pos]? = some stEntry ∧
    (withPorts (drivePos 8)).cfg.table.length ≤ (withPorts (drivePos 8)).inp.pos := by decide

/-- The last clause of LookupLaws, for the mnemonic of ST. -/
theorem witness_LookupLaws :
    TableWellFormed Config.ref ∧ Config.ref.table[4]? = some stEntry ∧
    keyOf (withPorts (driveKey [0x53, 0x54])).inp = stEntry.mnemonic := by decide

theorem witness_LookupKeyCorners :
    [0x53, 0x54, 0x58].take 2 = ([0x53, 0x54, 0x00] : List Byte).take 2 ∧ TableWellFormed base.cfg ∧
    keyOf base.inp = [] ∧ keyOf (withPorts (driveKey [0x58, 0x59, 0x5A])).inp = [0x58, 0x59, 0x5A] := by decide

/-- The last position, and the first past it. -/
theorem witness_ListCompletes :
    (withPorts (drivePos 7)).inp.pos < (withPorts (drivePos 7)).cfg.table.length ∧
    (withPorts (drivePos 8)).inp.pos ≥ (withPorts (drivePos 8)).cfg.table.length := by decide

theorem witness_ListAndLookupAgree :
    TableWellFormed Config.ref ∧ listAt Config.ref 4 = .entry 4 stEntry ∧
    lookup Config.ref [0x53, 0x54] = .entry 4 stEntry := by decide

/-- Each clause of EncCmdCompletes: no entry; a class; a DAC entry up to 31, write and read; one from 32. -/
theorem witness_EncCmdCompletes :
    find base.cfg (keyOf base.inp) = none ∧
    find Config.ref (keyOf (withPorts (driveKey [0x53, 0x54])).inp) = some 4 ∧
    (Config.ref.table[4]?.map (fun e => e.target.peripheral)) = some (.mcu .status) ∧
    (Config.ref.table[7]?.map (fun e => (e.target.peripheral, e.direction))) = some (.dac, .write) ∧
    (badTable.table[1]?.map (fun e => (e.target, e.direction))) = some (⟨.dac, 31⟩, .read) ∧
    find badTable [0x44, 0x52] = some 1 ∧
    find badTable [0x44, 0x57] = some 0 ∧
    (badTable.table[0]?.map (fun e => e.target)) = some ⟨.dac, 32⟩ := by decide

theorem witness_EncCmdOnWellFormedTable : ParamsWellFormed base.cfg := by decide

theorem witness_RequestFramesComplete : CanSend base := base_canSend

/-- In flight; ended; running with the port not open. -/
theorem witness_RequestFramesTurnedAway :
    ((flying ar2 .written []).session = .running ∧ (flying ar2 .written []).current ≠ none) ∧
    (endSession .success base).session ≠ .running ∧
    (State.reset.session = .running ∧ State.reset.current = none ∧ State.reset.port ≠ .opened) := by decide

/-- A read awaited from each peer, and none awaited. -/
theorem witness_ResponseFramesComplete :
    ((flying ar2 .settled []).current.map (fun t => t.peer) = some .mcu ∧ (flying ar2 .settled []).txnState = .settled ∧
      (flying ar2 .settled []).session = .running) ∧
    ((flying dr5 .settled []).current.map (fun t => t.peer) = some .dac ∧ (flying dr5 .settled []).txnState = .settled) ∧
    (flying dr5 .written []).txnState ≠ .settled := by decide

theorem witness_InstructionFrame : exec .list base = .next (listOp base) := rfl

/-- The four fetches of StepRunsDecodedInstruction. -/
theorem witness_StepRunsDecodedInstruction :
    (Ready (doing (.eval base.inp)) ∧ (doing (.eval base.inp)).program = [.eval base.inp] ∧
      PortsFit (doing (.eval base.inp)).cfg base.inp) ∧
    (Ready (doing (.word .opPort [7])) ∧ decode .opPort [7] = .ok .encCmd) ∧
    (Ready (doing (.word .hostToDac [0x2A])) ∧ decode .hostToDac [0x2A] = .ok (.dacRd 5 0 0b10) ∧
      (doing (.word .hostToDac [0x2A])).port = .opened) ∧
    (let s := flying dr5 .settled [.received (some [0x12, 0x34])]
     s.session = .running ∧ s.current = some dr5 ∧ s.txnState = .settled ∧
       s.events = [.received (some [0x12, 0x34])] ∧ [0x12, 0x34].length = respLen dr5.peer ∧
       decode (responseChannel dr5.peer) [0x12, 0x34] = .ok (.dacRsp 0x1234)) :=
  ⟨⟨doing_ready _, rfl, by decide⟩, ⟨doing_ready _, by decide⟩, ⟨doing_ready _, by decide, rfl⟩, by decide⟩

theorem witness_PlacedWordRunsNext :
    decodeTableWord 8 7 = some .encCmd ∧ decodeTableWord 8 8 = some (.dacRd 1 0 0) := by decide

/-- One key_len too many for LOOKUP; the last that fits, given in full, and one byte short of it; one too many for ENC_MCU. -/
theorem witness_MisfitIsNotDriven :
    (∀ p, Ready (doing (.eval p)) ∧ (doing (.eval p)).program = [.eval p]) ∧
    (base.cfg.mnemMax < 5 ∧ 4 ≤ base.cfg.mnemMax ∧ 4 ≤ ([0, 0, 0, 0, 0] : List Byte).length ∧
      ([0, 0, 0] : List Byte).length < 4) ∧
    (0 : BitVec 3) ≠ 5 ∧ (0 : BitVec 3) ≠ 7 := ⟨fun _ => ⟨doing_ready _, rfl⟩, by decide⟩

/-- Opened, not opened, no answer yet. -/
theorem witness_BusPortIsOpenedFirst :
    (∀ b, Ready (starting .sweep [.opened b]) ∧ (starting .sweep [.opened b]).events = [.opened b]) ∧
    (Ready (starting .sweep []) ∧ (starting .sweep []).events = []) ∧
    (starting .sweep []).program = [.sweep] ∧ needsPort .sweep = true ∧ (starting .sweep []).port ≠ .opened :=
  ⟨fun _ => ⟨starting_ready _ rfl, rfl⟩, ⟨⟨rfl, (fun _ _ h => nomatch h), rfl, rfl, rfl, rfl⟩, rfl⟩, by decide⟩

/-- A session ended by a bus error, and one by a termination mid-transaction. -/
theorem witness_PortReleasedOnEveryExit :
    ((flying ar2 .idle [.selected false]).session = .running ∧ (flying ar2 .idle [.selected false]).port = .opened ∧
      after (fun u => u.session) (step (flying ar2 .idle [.selected false])) = some (.ended .failure)) ∧
    after (fun u => u.session) (step (flying ar2 .written [.terminate])) = some .terminated := by decide

/-- Both answers, and the failing one outside the sweep and inside it. -/
theorem witness_SelectCall :
    (let s := flying ar2 .idle [.selected true]
     s.session = .running ∧ s.current = some ar2 ∧ s.txnState = .idle ∧ s.port = .opened ∧
       s.events = [.selected true]) ∧
    (flying ar2 .idle [.selected false]).events = [.selected false] ∧ ar2.who = .line ∧
    stSweep.who = .sweep 4 stEntry := by decide

/-- The whole frame, one byte less, none, and one more; outside the sweep and inside it. -/
theorem witness_WriteCall :
    (let s := flying ar2 .peerSelected [.written (some 4)]
     s.session = .running ∧ s.current = some ar2 ∧ s.txnState = .peerSelected ∧
       s.events = [.written (some ar2.frame.length)]) ∧
    3 < ar2.frame.length ∧ (flying ar2 .peerSelected [.written none]).events = [.written none] ∧
    5 > ar2.frame.length ∧ ar2.who = .line ∧ stSweep.who = .sweep 4 stEntry := by decide

theorem witness_SettleDelayIsUnconditional :
    (flying dr5 .written [.received none]).session = .running ∧
    (flying dr5 .written [.received none]).current = some dr5 ∧
    (flying dr5 .written [.received none]).txnState = .written ∧
    isOutsideRequest (.received none) = false := by decide

/-- All the bytes, one less, none, one more; outside the sweep and inside it. -/
theorem witness_ReadCall :
    (let s := flying dr5 .settled [.received (some [0x12, 0x34])]
     s.session = .running ∧ s.current = some dr5 ∧ s.txnState = .settled ∧
       s.events = [.received (some [0x12, 0x34])]) ∧
    [0x12, 0x34].length = respLen dr5.peer ∧ [0x12].length < respLen dr5.peer ∧
    (flying dr5 .settled [.received none]).events = [.received none] ∧
    [0x12, 0x34, 0x56].length > respLen dr5.peer ∧ dr5.who = .direct ∧ stSweep.who = .sweep 4 stEntry := by decide

/-- Each of the four callers, both peers among them. -/
theorem witness_DecodeReturnsValue :
    (∀ t ∈ [ar2, dr5, shot, stSweep], (flying t .readComplete []).session = .running ∧
      (flying t .readComplete []).current = some t ∧ (flying t .readComplete []).txnState = .readComplete ∧
      (flying t .readComplete []).events = []) ∧
    (ar2.peer = .mcu ∧ ar2.who = .line) ∧ (dr5.peer = .dac ∧ dr5.who = .direct) ∧ shot.who = .oneShot ∧
    stSweep.who = .sweep 4 stEntry := by decide

/-- Each of the three calls unanswered. -/
theorem witness_UnansweredCallWaits :
    (∀ x ∈ [TxnState.idle, .peerSelected, .settled], (flying ar2 x []).session = .running ∧
      (flying ar2 x []).current = some ar2 ∧ (flying ar2 x []).events = [] ∧ (flying ar2 x []).txnState = x) := by decide

/-- Vector T1, whose peer answers [0x03, 0x02, 0x02, 0x9A]; vector T4's, whose peer answers two bytes; and the sweep's. -/
theorem witness_TransactionSucceeds :
    (∀ t ∈ [ar2, stSweep],
     let s := flying t .idle [.selected true, .written (some 4), .received (some [0x03, 0x02, 0x02, 0x9A])]
     s.session = .running ∧ s.current = some t ∧ s.txnState = .idle ∧ s.port = .opened ∧
       s.events = [.selected true, .written (some t.frame.length), .received (some [0x03, 0x02, 0x02, 0x9A])] ∧
       [0x03, 0x02, 0x02, 0x9A].length = respLen t.peer ∧ t.peer = .mcu) ∧
    ([0x12, 0x34].length = respLen dr5.peer ∧ dr5.peer = .dac) ∧
    (ar2.who = .line ∧ stSweep.who = .sweep 4 stEntry) := by decide

/-- A settle delay, and a stop request and a termination in flight. -/
theorem witness_TransactionEndsOnlyTerminal :
    (let s := flyingSelected ar2 .written [] []
     s.session = .running ∧ s.current = some ar2 ∧ isTerminal s.txnState = false) ∧
    step (flyingSelected ar2 .written [] []) = .next (settleStep (flyingSelected ar2 .written [] [])) ∧
    (flying ar2 .written [.stopRequest]).events = [.stopRequest] ∧
    after (fun u => u.stop) (step (flying ar2 .written [.stopRequest])) = some true ∧
    (flying ar2 .written [.terminate]).events = [.terminate] ∧
    after (fun u => u.txnState) (step (flying ar2 .written [.terminate])) = some .written :=
  ⟨by decide, rfl, rfl, by decide, rfl, by decide⟩

/-- A failing select, outside the sweep and inside it. -/
theorem witness_FailureEndsSessionExceptInSweep :
    (isTerminal (flying ar2 .idle [.selected false]).txnState = false ∧
      (flying ar2 .idle [.selected false]).current = some ar2 ∧ ar2.who = .line ∧
      after (fun u => u.txnState) (step (flying ar2 .idle [.selected false])) = some .failed) ∧
    (let s := { flying stSweep .idle [.selected false] with sweep := ⟨true, 4⟩ }
     s.current = some stSweep ∧ stSweep.who = .sweep 4 stEntry ∧
       after (fun u => u.txnState) (step s) = some .failed) := by decide

/-- An EngineInv state with a transaction half done, and its next state. -/
theorem witness_StepKeepsEngineInv :
    EngineInv (flyingSelected ar2 .peerSelected [.selectPeer 0x10 true] [.written (some 4)]) ∧
    after (fun u => u.txnState) (step (flyingSelected ar2 .peerSelected [.selectPeer 0x10 true] [.written (some 4)])) =
      some .written := by
  refine ⟨⟨(fun h => nomatch h), ?_, (fun _ h => nomatch h), by decide⟩, by decide⟩
  rintro _ ⟨⟩
  exact ⟨rfl, rfl, by decide, fun _ => rfl, fun _ => rfl⟩

theorem witness_ConfigurationIsConstant : step base = .next base := rfl

theorem witness_RecordsOnlyGrow :
    after (fun u => u.busLog) (step (flying ar2 .written [])) = some [.delay 25 1] := by decide

theorem witness_EndedSessionDoesNothing :
    (endSession .failure base).session ≠ .running ∧ (terminateSession base).session ≠ .running := by decide

/-- A request arriving mid-transaction, and one noted with nothing under way. -/
theorem witness_StopRequestIsNotedThenObeyed :
    ((flying ar2 .settled [.stopRequest]).session = .running ∧
      (flying ar2 .settled [.stopRequest]).events = [.stopRequest]) ∧
    (let s := { base with stop := true }
     s.session = .running ∧ s.events = [] ∧ s.current = none ∧ s.sweep.active = false ∧ s.help = none ∧
       s.stop = true) := by decide

theorem witness_ParseValueOfDigits : ([6, 5, 5, 3, 6] : List (Fin 10)) ≠ [] := by decide

/-- Each of the seven clauses of ValidationErrorsMakeNoBusCall, at the ends of its ranges. -/
theorem witness_ValidationErrorsMakeNoBusCall :
    (∀ l, SessionReady (doing (.line l)) ∧ (doing (.line l)).program = [.line l]) ∧
    (∀ e ∈ base.cfg.table, e.mnemonic ≠ [0x58, 0x59, 0x5A]) ∧
    ([0x53, 0x54].length ≤ base.cfg.mnemMax ∧ stEntry ∈ base.cfg.table ∧ stEntry.mnemonic = [0x53, 0x54] ∧
      parseValue ['-', '1'] = .error .outOfRange) ∧
    ([0x44, 0x57].length ≤ badTable.mnemMax ∧ find badTable [0x44, 0x57] = some 0 ∧
      (∃ e, badTable.table[0]? = some e ∧ e.target = ⟨.dac, 32⟩) ∧ parseValue [] = .ok 0 ∧ (32 : Byte).toNat > 31) ∧
    (badBase.session = .running ∧ badBase.port = .opened) ∧
    ((-1 : Int) < 0 ∧ (256 : Int) > 255) ∧
    ((0 : Int) ≤ 255 ∧ (65536 : Int) > 65535) ∧
    (31 < (32 : Int) ∧ (255 : Int) ≤ 255 ∧ (65535 : Int) ≤ 65535) ∧
    (32 : Int) > 31 :=
  ⟨fun _ => ⟨doing_session _, rfl⟩, by decide, by decide, ⟨by decide, by decide, ⟨_, rfl, rfl⟩, by decide, by decide⟩, by decide⟩

theorem witness_CommandLineBeginsTransaction :
    SessionReady (doing (.line (.command [0x53, 0x54] []))) ∧ [0x53, 0x54].length ≤ base.cfg.mnemMax ∧
    parseValue [] = .ok 0 ∧
    encCmd base.cfg [0x53, 0x54] 0 = .command 4 stEntry [0x04, 0x00, 0x00, 0x00] 4 :=
  ⟨doing_session _, by decide, by decide, by decide⟩

theorem witness_DacLinesBeginTransaction :
    (SessionReady (doing (.line (.dacWrite 31 65535))) ∧
      (doing (.line (.dacWrite 31 65535))).program =
        [.line (.dacWrite (31 : Fin 32).val (0xFFFF : Value).toNat)]) ∧
    (SessionReady (doing (.line (.dacRead 0))) ∧ (doing (.line (.dacRead 0))).program =
        [.line (.dacRead (0 : Fin 32).val)]) :=
  ⟨⟨doing_session _, by decide⟩, ⟨doing_session _, by decide⟩⟩

/-- The ends of the accepted ranges, and the first value outside each. -/
theorem witness_OneShotBeginsOrRejects :
    (∀ d t i v, SessionReady (doing (.oneShot d t i v)) ∧
      (doing (.oneShot d t i v)).program = [.oneShot d t i v]) ∧
    ((0 : Int) ≤ 1 ∧ (0 : Int) ≤ 127 ∧ (0 : Int) ≤ 255 ∧ (0 : Int) ≤ 65535) ∧
    ((2 : Int) > 1 ∧ (128 : Int) > 127 ∧ (256 : Int) > 255 ∧ (65536 : Int) > 65535) :=
  ⟨fun _ _ _ _ => ⟨doing_session _, rfl⟩, by decide⟩

/-- The sweep at a Read entry; at one that does not encode; at a Write entry, with no stop requested, with one under each
setting; and past the last. -/
theorem witness_SweepVisitsEntries :
    (let s := { base with sweep := ⟨true, 4⟩ }
     s.session = .running ∧ s.events = [] ∧ s.current = none ∧ s.sweep.active = true ∧
       s.cfg.table[s.sweep.pos]? = some stEntry ∧ stEntry.direction = .read ∧
       encodeEntry s.cfg stEntry 0 = .frame [0x04, 0x00, 0x00, 0x00]) ∧
    (let s := { badBase with sweep := ⟨true, 2⟩ }
     s.cfg.table[s.sweep.pos]? = some ⟨[0x44, 0x58], .read, ⟨.dac, 255⟩, []⟩ ∧
       encodeEntry s.cfg ⟨[0x44, 0x58], .read, ⟨.dac, 255⟩, []⟩ 0 = .error (.outOfRange 255)) ∧
    (let s := { base with sweep := ⟨true, 0⟩ }
     s.cfg.table[s.sweep.pos]? = some gw0Entry ∧ gw0Entry.direction = .write ∧ s.stop = false) ∧
    (let s := { base with sweep := ⟨true, 0⟩, stop := true }
     s.stop = true ∧ s.cfg.stopCheck = .perEntry ∧
       { s with cfg := { Config.ref with stopCheck := .perPass } }.cfg.stopCheck = .perPass) ∧
    (let s := { base with sweep := ⟨true, 8⟩ }
     s.cfg.table.length ≤ s.sweep.pos) := by decide

theorem witness_HelpListsWholeTable :
    SessionReady (doing (.line .help)) ∧ (doing (.line .help)).program = [.line .help] := ⟨doing_session _, rfl⟩

theorem witness_QuitAndSweepCommands :
    (SessionReady (doing (.line .quit)) ∧ (doing (.line .quit)).program = [.line .quit]) ∧
    SessionReady (doing .sweep) ∧ (doing .sweep).program = [.sweep] :=
  ⟨⟨doing_session _, rfl⟩, doing_session _, rfl⟩

end Sys2Proof.Tests
end

section
/-! PROOFS. The eight operations of the block: what each returns for what stands on the ports (R14), and what the output
ports then show (R28). -/

namespace Sys2Proof.Machine

/-- What each of the eight operations returns, from the parameters and the input ports alone (R14). -/
inductive Returns (p : Params) (x : InPorts) : Instr → OpResult → Prop where
  | encMcu : Returns p x .encMcu (encMcu x.dir x.ptype x.index x.value)
  | decMcu : Returns p x .decMcu (.value (decMcu x.rx2 x.rx3))
  | encDacWr : Returns p x .encDacWr (encDacWr x.index x.ctrl x.value)
  | encDacRd : Returns p x .encDacRd (encDacRd x.index x.ctrl)
  | decDac : Returns p x .decDac (.value (decDac x.rx0 x.rx1))
  | lookup : Returns p x .lookup (lookup p (keyOf x))
  | list : Returns p x .list (listAt p x.pos)
  | encCmd : Returns p x .encCmd (encCmd p (keyOf x) x.value)

/-- Executing an operation puts what it returns on the ports, and changes nothing else. -/
theorem exec_of_returns {s : State} {i : Instr} {r : OpResult} (h : Returns s.cfg s.inp i r) :
    exec i s = .next (ret r s) := by
  cases h <;> rfl

/-- Every op code is an operation, and every operation returns (R56). -/
theorem opInstr_returns (p : Params) (x : InPorts) (op : BitVec 3) : ∃ r, Returns p x (opInstr op) r := by
  unfold opInstr
  split
  · exact ⟨_, .encMcu⟩
  · exact ⟨_, .decMcu⟩
  · exact ⟨_, .encDacWr⟩
  · exact ⟨_, .encDacRd⟩
  · exact ⟨_, .decDac⟩
  · exact ⟨_, .lookup⟩
  · exact ⟨_, .list⟩
  · exact ⟨_, .encCmd⟩

/-- What an evaluation leaves, by what its operation returned. -/
theorem exec_opInstr_next {op : BitVec 3} {s u : State} (h : exec (opInstr op) s = .next u) :
    ∃ r, Returns s.cfg s.inp (opInstr op) r ∧ u = ret r s := by
  obtain ⟨r, hr⟩ := opInstr_returns s.cfg s.inp op
  rw [exec_of_returns hr] at h
  cases h
  exact ⟨r, hr, rfl⟩

/-- Settles O16: `Returns` speaks of the parameters and the ports only. -/
theorem operationsArePure : Obligations.OperationsArePure := by
  unfold Obligations.OperationsArePure
  intro op s s' hinp hcfg
  obtain ⟨r, hr⟩ := opInstr_returns s.cfg s.inp op
  have hr' : Returns s'.cfg s'.inp (opInstr op) r := hcfg ▸ hinp ▸ hr
  exact ⟨r, exec_of_returns hr, exec_of_returns hr'⟩

/-! What an operation can return, and what the output ports then show. -/

theorem frame_length_of_encodeEntry {p : Params} {e : CommandEntry} {v : Value} {f : Frame}
    (h : encodeEntry p e v = .frame f) :
    f.length = if e.target.peripheral ≠ .dac then 4 else if e.direction = .write then 3 else 1 := by
  cases hp : e.target.peripheral with
  | mcu c =>
    rw [encodeEntry_mcu p v hp] at h
    cases h
    rfl
  | dac =>
    cases hd : e.direction with
    | write =>
      rw [encodeEntry_dac_write p v hp hd] at h
      rcases encDacWr_cases e.target.index p.dacCtrlWr v with ⟨-, h'⟩ | ⟨-, h'⟩ <;> cases h'.symm.trans h
      rfl
    | read =>
      rw [encodeEntry_dac_read p v hp hd] at h
      rcases encDacRd_cases e.target.index p.dacCtrlRd with ⟨-, h'⟩ | ⟨-, h'⟩ <;> cases h'.symm.trans h
      rfl

/-- Everything the eight operations can return, with the operations that return a frame and their frames' lengths (R46). -/
theorem Returns.result_cases {p : Params} {x : InPorts} {i : Instr} {r : OpResult} (h : Returns p x i r) :
    (∃ f, r = .frame f ∧
      ((i = .encMcu ∧ f.length = 4) ∨ (i = .encDacWr ∧ f.length = 3) ∨ (i = .encDacRd ∧ f.length = 1))) ∨
    (∃ v, r = .value v) ∨ (∃ pos e, r = .entry pos e) ∨ r = .endOfList ∨
    (∃ pos e f n, r = .command pos e f n ∧ i = .encCmd ∧ encodeEntry p e x.value = .frame f) ∨
    (∃ n, r = .error (.outOfRange n)) ∨ r = .error (.notFound (keyOf x)) := by
  cases h with
  | encMcu => rcases encMcu_cases x.dir x.ptype x.index x.value with ⟨-, h⟩ | ⟨-, h⟩ <;> simp [h]
  | decMcu => simp
  | encDacWr => rcases encDacWr_cases x.index x.ctrl x.value with ⟨-, h⟩ | ⟨-, h⟩ <;> simp [h]
  | encDacRd => rcases encDacRd_cases x.index x.ctrl with ⟨-, h⟩ | ⟨-, h⟩ <;> simp [h]
  | decDac => simp
  | lookup => rcases lookup_cases p (keyOf x) with ⟨-, h⟩ | ⟨pos, e, -, -, -, h⟩ <;> simp [h]
  | list => unfold listAt; split <;> simp
  | encCmd =>
    rcases encCmd_cases p (keyOf x) x.value with ⟨-, h⟩ | ⟨pos, e, -, -, -, -, ⟨f, hf, h⟩ | ⟨-, -, h⟩⟩ <;> simp [h]
    exact hf

@[simp] theorem outPortsOf_ret (r : OpResult) (s : State) : outPortsOf (ret r s) = some (outPorts s.cfg r) := rfl

/-- Three bits hold the length of every frame. -/
theorem toNat_txLen {n : Nat} (h : n ≤ 4) : (BitVec.ofNat 3 n).toNat = n := by
  simp; omega

/-- Settles O18: the result's constructor decides which clause speaks of it. -/
theorem txLenMatchesFrame : Obligations.TxLenMatchesFrame := by
  unfold Obligations.TxLenMatchesFrame
  intro op s u h
  obtain ⟨r, hr, rfl⟩ := exec_opInstr_next h
  refine ⟨_, outPortsOf_ret r s, ?_⟩
  rcases hr.result_cases with ⟨f, rfl, hlen⟩ | ⟨v, rfl⟩ | ⟨pos, e, rfl⟩ | rfl | ⟨pos, e, f, n, rfl, hop, hf⟩ |
    ⟨n, rfl⟩ | rfl
  case inl =>
    have htx := toNat_txLen (n := f.length) (by omega)
    simp [outPorts, htx, hlen]
  case inr.inr.inr.inr.inl =>
    have hlen := frame_length_of_encodeEntry hf
    have htx := toNat_txLen (n := f.length) (by rw [hlen]; split_ifs <;> omega)
    refine ⟨by simp, fun _ _ _ _ hres => ?_, by simp, by simp⟩
    cases hres
    exact ⟨hop, rfl, rfl, htx, hlen⟩
  all_goals simp [outPorts, errStatus]

/-! What the ports show of an entry. -/

/-- Ports with status OK, `hit` 1 and an entry's ports show that entry (R28, D11). -/
theorem showsEntry_entryPorts {p : Params} {o : OutPorts} {pos : Nat} {e : CommandEntry} (hok : o.status = 0)
    (hhit : o.hit = some 1) (hv : o.rvalue = none) (he : o.entry = some (entryPorts p pos e)) :
    ShowsEntry p o (entryPorts p pos e) pos e where
  ok := hok
  hit := hhit
  noValue := hv
  shown := he
  ePos := rfl
  eDir := by cases hd : e.direction <;> simp [entryPorts, hd, dirBit]
  eDac h := by simp [entryPorts, h, isDac, entryPtype]
  eClass c h := by simp [entryPorts, h, isDac, entryPtype]
  eIndex := rfl
  eMnem := ⟨rfl, rfl⟩
  eLabel := ⟨rfl, rfl⟩

theorem outPorts_entry_shows (p : Params) (pos : Nat) (e : CommandEntry) :
    ShowsEntry p (outPorts p (.entry pos e)) (entryPorts p pos e) pos e :=
  showsEntry_entryPorts rfl rfl rfl rfl

theorem outPorts_command_shows (p : Params) (pos : Nat) (e : CommandEntry) (f : Frame) (n : Nat) :
    ShowsEntry p (outPorts p (.command pos e f n)) (entryPorts p pos e) pos e :=
  showsEntry_entryPorts rfl rfl rfl rfl

/-- The number of two bytes, high byte first (R53). -/
theorem toNat_joinBytes (hi lo : Byte) : (joinBytes hi lo).toNat = 256 * hi.toNat + lo.toNat := by
  have hwide (b : Byte) : b.toNat % 65536 = b.toNat := Nat.mod_eq_of_lt (by omega)
  have hhi : hi.toNat <<< 8 % 65536 = hi.toNat <<< 8 := by
    rw [Nat.shiftLeft_eq]
    omega
  calc (joinBytes hi lo).toNat = hi.toNat <<< 8 ||| lo.toNat := by
        simp [joinBytes, hwide, hhi]
    _ = hi.toNat <<< 8 + lo.toNat := (Nat.shiftLeft_add_eq_or_of_lt lo.isLt hi.toNat).symm
    _ = 256 * hi.toNat + lo.toNat := by
        rw [Nat.shiftLeft_eq]
        omega

theorem listAt_of_read {p : Params} {pos : Nat} {e : CommandEntry} (h : tableRead p pos = some e) :
    listAt p pos = .entry pos e := by
  simp [listAt, h]

theorem listAt_past_end {p : Params} {pos : Nat} (h : p.table.length ≤ pos) : listAt p pos = .endOfList := by
  simp [listAt, tableRead, List.getElem?_eq_none h]

theorem encCmd_of_find_none {p : Params} {k : List Byte} {v : Value} (h : find p k = none) :
    encCmd p k v = .error (.notFound k) := by
  simp [encCmd, lookup_of_find_none h]

theorem encCmd_of_find {p : Params} {k : List Byte} {v : Value} {pos : Nat} {e : CommandEntry} {f : Frame}
    (h : find p k = some pos) (he : tableRead p pos = some e) (hf : encodeEntry p e v = .frame f) :
    encCmd p k v = .command pos e f (respLen (peerOf e.target.peripheral)) := by
  simp [encCmd, lookup_of_find h he, hf]

/-- An entry with a legal index encodes to a frame (R81). -/
theorem encodeEntry_of_legal {p : Params} {e : CommandEntry} (v : Value)
    (h : e.target.peripheral = .dac → e.target.index.toNat ≤ 31) : ∃ f, encodeEntry p e v = .frame f := by
  rcases encodeEntry_cases p e v with hf | ⟨hd, hi, -⟩
  · exact hf
  · have := h hd
    omega

/-- `rsp_len` on its port (R83). -/
theorem rspLen_port (t : Peripheral) :
    BitVec.ofNat 3 (respLen (peerOf t)) = if t = .dac then 2 else 4 := by
  cases t <;> rfl

/-- Settles O19: each operation's result, by the lemma about its case, and the ports that show it. -/
theorem outputPortsShowResult : Obligations.OutputPortsShowResult := by
  unfold Obligations.OutputPortsShowResult
  intro s
  refine ⟨fun pos e hfind he => ⟨?_, fun hidx => ?_⟩, fun hnone i hi => ?_, fun e he => ?_, fun hpast => ?_, ?_, ?_⟩
  · have hexec := exec_of_returns (s := s) .lookup
    rw [lookup_of_find hfind he] at hexec
    exact ⟨_, _, _, hexec, rfl, outPorts_entry_shows s.cfg pos e, rfl, rfl⟩
  · obtain ⟨f, hf⟩ := encodeEntry_of_legal (p := s.cfg) s.inp.value hidx
    have hexec := exec_of_returns (s := s) .encCmd
    rw [encCmd_of_find hfind he hf] at hexec
    exact ⟨_, _, _, f, hexec, rfl, outPorts_command_shows s.cfg pos e f _, hf, rfl,
      congrArg some (rspLen_port e.target.peripheral)⟩
  · have hret : Returns s.cfg s.inp i (.error (.notFound (keyOf s.inp))) := by
      simp only [List.mem_cons, List.not_mem_nil, or_false] at hi
      rcases hi with rfl | rfl
      · exact lookup_of_find_none hnone ▸ .lookup
      · exact encCmd_of_find_none hnone ▸ .encCmd
    exact ⟨_, _, exec_of_returns hret, rfl, rfl, rfl, rfl, rfl, rfl, rfl⟩
  · have hexec := exec_of_returns (s := s) .list
    rw [listAt_of_read he] at hexec
    exact ⟨_, _, _, hexec, rfl, outPorts_entry_shows s.cfg s.inp.pos e, rfl, rfl⟩
  · have hexec := exec_of_returns (s := s) .list
    rw [listAt_past_end hpast] at hexec
    exact ⟨_, _, hexec, rfl, rfl, rfl, rfl, rfl, rfl, rfl⟩
  · exact ⟨_, _, exec_of_returns .decMcu, rfl, rfl, rfl, rfl, rfl, rfl, _, rfl, toNat_joinBytes _ _⟩
  · exact ⟨_, _, exec_of_returns .decDac, rfl, rfl, rfl, rfl, rfl, rfl, _, rfl, toNat_joinBytes _ _⟩

end Sys2Proof.Machine
end

section
/-! PROOFS. The frame rows as instructions (log entry 3): what each leaves, and with the operations, everything an
instruction can leave. -/

namespace Sys2Proof.Machine

/-! The operands of a request frame fit its encoder, so the frame is sent as it stands (R70, R75). -/

theorem encMcu_of_frame (d : BitVec 1) (t : BitVec 7) (i : Byte) (v : Value) :
    encMcu d (t.setWidth 8) i v = .frame [mcuByte0 d t, i, hiByte v, loByte v] := by
  rcases encMcu_cases d (t.setWidth 8) i v with ⟨h, -⟩ | ⟨-, h⟩
  · exact absurd h (type_setWidth_le t)
  · rw [h, extract_type_setWidth]

theorem encDacWr_of_frame (r : BitVec 5) (c : BitVec 2) (v : Value) :
    encDacWr (r.setWidth 8) c v = .frame [dacByte0 r 0 c, hiByte v, loByte v] := by
  rcases encDacWr_cases (r.setWidth 8) c v with ⟨h, -⟩ | ⟨-, h⟩
  · exact absurd h (reg_setWidth_le r)
  · rw [h, extract_reg_setWidth]

theorem encDacRd_of_frame (r : BitVec 5) (c : BitVec 2) :
    encDacRd (r.setWidth 8) c = .frame [dacByte0 r 0 c] := by
  rcases encDacRd_cases (r.setWidth 8) c with ⟨h, -⟩ | ⟨-, h⟩
  · exact absurd h (reg_setWidth_le r)
  · rw [h, extract_reg_setWidth]

/-- A request frame's driven operation, sent: the direct caller's transaction begins where one may be sent. -/
theorem sendRequest_frame_next {peer : Peer} {op : State → State} {f : InPorts → InPorts} {bytes : Frame} {s u : State}
    (hop : op (drive f s) = ret (.frame bytes) (drive f s)) (h : sendRequest peer op (drive f s) = .next u) :
    CanSend s ∧ u = beginTxn peer bytes .direct (ret (.frame bytes) (drive f s)) := by
  obtain ⟨hrun, hnone, hport, rfl⟩ := sendRequest_next h
  rw [hop]
  exact ⟨⟨hrun, hnone, hport⟩, rfl⟩

theorem exec_mcuReq_next {d : BitVec 1} {t : BitVec 7} {i : Byte} {v : Value} {s u : State}
    (h : exec (.mcuReq d t i v) s = .next u) :
    CanSend s ∧ u = beginTxn .mcu [mcuByte0 d t, i, hiByte v, loByte v] .direct
      (ret (.frame [mcuByte0 d t, i, hiByte v, loByte v]) (drive (driveMcu d (t.setWidth 8) i v) s)) :=
  sendRequest_frame_next (congrArg (ret · _) (encMcu_of_frame d t i v)) h

theorem exec_dacWr_next {r : BitVec 5} {z : BitVec 1} {c : BitVec 2} {v : Value} {s u : State}
    (h : exec (.dacWr r z c v) s = .next u) :
    z = 0 ∧ CanSend s ∧ u = beginTxn .dac [dacByte0 r 0 c, hiByte v, loByte v] .direct
      (ret (.frame [dacByte0 r 0 c, hiByte v, loByte v]) (drive (driveDacWr (r.setWidth 8) c v) s)) := by
  change execDacWr r z c v s = .next u at h
  unfold execDacWr at h
  split at h
  · exact ⟨‹_›, sendRequest_frame_next (congrArg (ret · _) (encDacWr_of_frame r c v)) h⟩
  · cases h

theorem exec_dacRd_next {r : BitVec 5} {z : BitVec 1} {c : BitVec 2} {s u : State}
    (h : exec (.dacRd r z c) s = .next u) :
    z = 0 ∧ CanSend s ∧ u = beginTxn .dac [dacByte0 r 0 c] .direct
      (ret (.frame [dacByte0 r 0 c]) (drive (driveDacRd (r.setWidth 8) c) s)) := by
  change execDacRd r z c s = .next u at h
  unfold execDacRd at h
  split at h
  · exact ⟨‹_›, sendRequest_frame_next (congrArg (ret · _) (encDacRd_of_frame r c)) h⟩
  · cases h

theorem exec_mcuRsp (p0 p1 : Byte) (v : Value) (s : State) :
    exec (.mcuRsp p0 p1 v) s = .next (receiveFrame .mcu [p0, p1, hiByte v, loByte v]
      (ret (.value v) (drive (driveRx4 p0 p1 (hiByte v) (loByte v)) s))) :=
  congrArg (fun w => Host.Outcome.next (receiveFrame .mcu _ (ret (.value w) _))) (joinBytes_hi_lo v)

theorem exec_dacRsp (v : Value) (s : State) :
    exec (.dacRsp v) s = .next (receiveFrame .dac [hiByte v, loByte v]
      (ret (.value v) (drive (driveRx2 (hiByte v) (loByte v)) s))) :=
  congrArg (fun w => Host.Outcome.next (receiveFrame .dac _ (ret (.value w) _))) (joinBytes_hi_lo v)

/-- Everything an instruction can leave: an operation's result; a direct transaction begun with a frame of its peer's
shape; or a response frame's value, received as a frame of its peer. No frame row drives the key ports. -/
theorem exec_next {i : Instr} {s u : State} (h : exec i s = .next u) :
    (∃ r, Returns s.cfg s.inp i r ∧ u = ret r s) ∨
    (∃ peer bytes f, u = beginTxn peer bytes .direct (ret (.frame bytes) (drive f s)) ∧
      CanSend s ∧ frameOk peer bytes = true ∧ ∀ p, (f p).key = p.key ∧ (f p).keyLen = p.keyLen) ∨
    (∃ peer bytes f v, u = receiveFrame peer bytes (ret (.value v) (drive f s)) ∧
      bytes.length = respLen peer ∧ ∀ p, (f p).key = p.key ∧ (f p).keyLen = p.keyLen) := by
  have operation {r : OpResult} (hr : Returns s.cfg s.inp i r) : ∃ r, Returns s.cfg s.inp i r ∧ u = ret r s := by
    cases (exec_of_returns hr).symm.trans h
    exact ⟨r, hr, rfl⟩
  cases i with
  | encMcu => exact .inl (operation .encMcu)
  | decMcu => exact .inl (operation .decMcu)
  | encDacWr => exact .inl (operation .encDacWr)
  | encDacRd => exact .inl (operation .encDacRd)
  | decDac => exact .inl (operation .decDac)
  | lookup => exact .inl (operation .lookup)
  | list => exact .inl (operation .list)
  | encCmd => exact .inl (operation .encCmd)
  | mcuReq d t i v =>
    obtain ⟨hsend, rfl⟩ := exec_mcuReq_next h
    exact .inr (.inl ⟨_, _, _, rfl, hsend, rfl, fun _ => ⟨rfl, rfl⟩⟩)
  | mcuRsp p0 p1 v =>
    cases (exec_mcuRsp p0 p1 v s).symm.trans h
    exact .inr (.inr ⟨_, _, _, _, rfl, rfl, fun _ => ⟨rfl, rfl⟩⟩)
  | dacWr r z c v =>
    obtain ⟨-, hsend, rfl⟩ := exec_dacWr_next h
    exact .inr (.inl ⟨_, _, _, rfl, hsend, by simp [frameOk, Config.dacWrLen], fun _ => ⟨rfl, rfl⟩⟩)
  | dacRd r z c =>
    obtain ⟨-, hsend, rfl⟩ := exec_dacRd_next h
    exact .inr (.inl ⟨_, _, _, rfl, hsend, by simp [frameOk, Config.dacRdLen], fun _ => ⟨rfl, rfl⟩⟩)
  | dacRsp v =>
    cases (exec_dacRsp v s).symm.trans h
    exact .inr (.inr ⟨_, _, _, _, rfl, rfl, fun _ => ⟨rfl, rfl⟩⟩)

/-- Settles O30: no case of `exec_next` touches the kept fields, and only a received frame that completes the read adds to
the record. -/
theorem instructionFrame : Obligations.InstructionFrame := by
  unfold Obligations.InstructionFrame
  intro i s u h
  rcases exec_next h with ⟨r, -, rfl⟩ | ⟨peer, bytes, f, rfl, -, -, -⟩ | ⟨peer, bytes, f, v, rfl, -, -⟩
  · simp
  · simp [beginTxn]
  · rcases receiveFrame_cases peer bytes (ret (.value v) (drive f s)) with ⟨⟨t, -, -, -, hsettled⟩, heq⟩ | ⟨-, heq⟩
    · rw [heq]
      exact ⟨rfl, rfl, rfl, rfl, rfl, rfl, rfl, rfl, rfl, rfl, .inr ⟨_, bytes, rfl, hsettled⟩⟩
    · simp [heq]

end Sys2Proof.Machine
end

section
/-! PROOFS. A step is a chain of the named operations of Machine/Ops.lean; what each of them keeps, every step keeps. -/

namespace Sys2Proof.Machine

/-- What the caller's step does, by what is under way: a transaction in flight, the sweep, `H`, a stop request, and else the
next command, for which the Bus Port is opened first where it must be (R42, R112, R127). -/
inductive CallerMove (s : State) : State → Prop where
  | engine {t : Txn} {u : State} (hcur : s.current = some t) (hstep : engineStep t s = .next u) : CallerMove s u
  | sweep (hcur : s.current = none) (hsweep : s.sweep.active = true) : CallerMove s (sweepStep s)
  | help {n : Nat} (hcur : s.current = none) (hsweep : s.sweep.active = false) (hhelp : s.help = some n) :
      CallerMove s (helpStep n s)
  | stop (hcur : s.current = none) (hsweep : s.sweep.active = false) (hhelp : s.help = none) (hstop : s.stop = true) :
      CallerMove s (endSession .success s)
  | nothing (hcur : s.current = none) (hsweep : s.sweep.active = false) (hhelp : s.help = none)
      (hstop : s.stop = false) (hprog : s.program = []) : CallerMove s s
  | opening {c : Command} {cs : List Command} {u : State} (hcur : s.current = none) (hsweep : s.sweep.active = false)
      (hhelp : s.help = none) (hstop : s.stop = false) (hprog : s.program = c :: cs)
      (hport : needsPort c = true ∧ s.port ≠ .opened) (hstep : openStep s = .next u) : CallerMove s u
  | command {c : Command} {cs : List Command} {u : State} (hcur : s.current = none) (hsweep : s.sweep.active = false)
      (hhelp : s.help = none) (hstop : s.stop = false) (hprog : s.program = c :: cs)
      (hport : ¬ (needsPort c = true ∧ s.port ≠ .opened)) (hstep : commandStep c { s with program := cs } = .next u) :
      CallerMove s u

theorem callerStep_next {s u : State} (h : callerStep s = .next u) : CallerMove s u := by
  unfold callerStep at h
  split at h
  case h_1 t hcur => exact .engine hcur h
  case h_2 hcur =>
    split at h
    case isTrue hsweep =>
      cases h
      exact .sweep hcur hsweep
    case isFalse hsweep =>
      replace hsweep := eq_false_of_ne_true hsweep
      split at h
      case h_1 n hhelp =>
        cases h
        exact .help hcur hsweep hhelp
      case h_2 hhelp =>
        split at h
        case isTrue hstop =>
          cases h
          exact .stop hcur hsweep hhelp hstop
        case isFalse hstop =>
          replace hstop := eq_false_of_ne_true hstop
          split at h
          case h_1 hprog =>
            cases h
            exact .nothing hcur hsweep hhelp hstop hprog
          case h_2 c cs hprog =>
            split at h
            case isTrue hport => exact .opening hcur hsweep hhelp hstop hprog hport h
            case isFalse hport => exact .command hcur hsweep hhelp hstop hprog hport h

/-- What a step does: nothing after the session's end; else it takes a request from outside, or the caller moves. -/
theorem step_next {s u : State} (h : step s = .next u) :
    (s.session ≠ .running ∧ u = s) ∨
    (s.session = .running ∧
      ((∃ es, s.events = .stopRequest :: es ∧ u = { s with events := es, stop := true }) ∨
       (∃ es, s.events = .terminate :: es ∧ u = terminateSession (setEvents es s)) ∨
       ((∀ e es, s.events = e :: es → isOutsideRequest e = false) ∧ CallerMove s u))) := by
  unfold step machineStep at h
  split at h
  case h_1 e hsess =>
    cases h
    exact .inl ⟨by simp [hsess], rfl⟩
  case h_2 hsess =>
    cases h
    exact .inl ⟨by simp [hsess], rfl⟩
  case h_3 hsess =>
    refine .inr ⟨hsess, ?_⟩
    split at h
    case h_1 es hev =>
      cases h
      exact .inl ⟨es, hev, rfl⟩
    case h_2 es hev =>
      cases h
      exact .inr (.inl ⟨es, hev, rfl⟩)
    case h_3 hstop hterm =>
      refine .inr (.inr ⟨fun e es hev => ?_, callerStep_next h⟩)
      cases e with
      | stopRequest => exact absurd hev (hstop es)
      | terminate => exact absurd hev (hterm es)
      | _ => rfl

/-- `u` comes from `s` by the named operations on the state, and by taking a command or noting a stop request. -/
inductive OpChain (s : State) : State → Prop where
  | refl : OpChain s s
  | ret {u : State} (r : OpResult) : OpChain s u → OpChain s (ret r u)
  | drive {u : State} (f : InPorts → InPorts) : OpChain s u → OpChain s (drive f u)
  | logCall {u : State} (c : BusCall) : OpChain s u → OpChain s (logCall c u)
  | report {u : State} (r : Report) : OpChain s u → OpChain s (report r u)
  | setTxn {u : State} (x : TxnState) : OpChain s u → OpChain s (setTxn x u)
  | setCurrent {u : State} (c : Option Txn) : OpChain s u → OpChain s (setCurrent c u)
  | setEvents {u : State} (es : List Event) : OpChain s u → OpChain s (setEvents es u)
  | setPeer {u : State} (a : Int) : OpChain s u → OpChain s (setPeer a u)
  | setPort {u : State} (p : PortState) : OpChain s u → OpChain s (setPort p u)
  | setSweep {u : State} (w : Sweep) : OpChain s u → OpChain s (setSweep w u)
  | setHelp {u : State} (h : Option Nat) : OpChain s u → OpChain s (setHelp h u)
  | endSession {u : State} (e : ExitStatus) : OpChain s u → OpChain s (endSession e u)
  | terminateSession {u : State} : OpChain s u → OpChain s (terminateSession u)
  | takeCommand {u : State} (cs : List Command) : OpChain s u → OpChain s { u with program := cs }
  | noteStop {u : State} (es : List Event) : OpChain s u → OpChain s { u with events := es, stop := true }

namespace OpChain

variable {s u v : State}

/-- No named operation changes a parameter (R17). -/
theorem cfg_eq (h : OpChain s u) : u.cfg = s.cfg := by
  induction h with
  | refl => rfl
  | _ => assumption

/-! The shared operations of the engine continue a chain. -/

theorem sweepAdvance (h : OpChain s u) : OpChain s (sweepAdvance u) :=
  sweepAdvance_eq u ▸ h.setSweep _

theorem sweepAfterEntry (h : OpChain s u) : OpChain s (sweepAfterEntry u) :=
  (h.logCall _).sweepAdvance

theorem afterTxn (who : Caller) (ok : Bool) (h : OpChain s u) : OpChain s (afterTxn who ok u) := by
  rcases afterTxn_cases who ok u with ⟨heq, -, -⟩ | ⟨x, heq, -, -⟩ | ⟨_, _, -, heq⟩ <;> rw [heq]
  · exact h
  · exact h.endSession x
  · exact h.sweepAfterEntry

theorem finishTxn (t : Txn) (w : Value) (h : OpChain s u) : OpChain s (finishTxn t w u) :=
  (((h.setTxn _).setCurrent _).report _).afterTxn _ _

theorem failTxn (t : Txn) (stage : BusStage) (h : OpChain s u) : OpChain s (failTxn t stage u) :=
  (((h.setTxn _).setCurrent _).report _).afterTxn _ _

theorem reject (who : Caller) (e : Err) (h : OpChain s u) : OpChain s (reject who e u) := by
  rcases reject_cases who e u with ⟨heq, -⟩ | ⟨-, heq⟩ | ⟨_, _, -, heq⟩ <;> rw [heq]
  · exact h.report _
  · exact (h.report _).endSession _
  · exact (h.report _).sweepAfterEntry

theorem beginTxn (peer : Peer) (f : Frame) (who : Caller) (h : OpChain s u) : OpChain s (beginTxn peer f who u) :=
  (h.setTxn _).setCurrent _

theorem launch (peer : Peer) (who : Caller) (h : OpChain s u) : OpChain s (launch peer who u) := by
  rcases launch_cases peer who u with ⟨f, -, heq⟩ | ⟨e, -, heq⟩ | heq <;> rw [heq]
  · exact h.beginTxn peer f who
  · exact (h.setTxn _).reject who e
  · exact h

theorem receiveFrame (peer : Peer) (bytes : Frame) (h : OpChain s u) : OpChain s (receiveFrame peer bytes u) := by
  rcases receiveFrame_cases peer bytes u with ⟨-, heq⟩ | ⟨-, heq⟩ <;> rw [heq]
  · exact (h.logCall _).setTxn _
  · exact h

/-- So does every instruction. -/
theorem exec {i : Instr} (h : OpChain s u) (hv : exec i u = .next v) : OpChain s v := by
  rcases exec_next hv with ⟨r, -, rfl⟩ | ⟨peer, bytes, f, rfl, -⟩ | ⟨peer, bytes, f, w, rfl, -⟩
  · exact h.ret r
  · exact ((h.drive f).ret _).beginTxn peer bytes .direct
  · exact ((h.drive f).ret _).receiveFrame peer bytes

theorem execWord {ch : Channel} {bytes : List Byte} (h : OpChain s u) (hv : execWord ch bytes u = .next v) :
    OpChain s v := by
  unfold Machine.execWord at hv
  split at hv
  · exact h.exec hv
  · cases hv

/-! The transitions of a transaction in flight. -/

theorem selectStep {t : Txn} (h : OpChain s u) (hv : selectStep t u = .next v) : OpChain s v := by
  unfold Machine.selectStep at hv
  split at hv <;> cases hv
  · exact h
  · exact (((h.setEvents _).logCall _).setPeer _).setTxn _
  · exact (((h.setEvents _).logCall _).setPeer _).failTxn t _

theorem writeStep {t : Txn} (h : OpChain s u) (hv : writeStep t u = .next v) : OpChain s v := by
  unfold Machine.writeStep at hv
  split at hv
  · cases hv
    exact h
  · cases hv
    exact ((h.setEvents _).logCall _).failTxn t _
  · split_ifs at hv <;> cases hv
    · exact ((h.setEvents _).logCall _).setTxn _
    · exact ((h.setEvents _).logCall _).failTxn t _
  · cases hv

theorem readStep {t : Txn} (h : OpChain s u) (hv : readStep t u = .next v) : OpChain s v := by
  unfold Machine.readStep at hv
  split at hv
  · cases hv
    exact h
  · cases hv
    exact ((h.setEvents _).logCall _).failTxn t _
  · split_ifs at hv
    · exact (h.setEvents _).execWord hv
    · cases hv
      exact ((h.setEvents _).logCall _).failTxn t _
  · cases hv

theorem decodeStep (t : Txn) (h : OpChain s u) : OpChain s (decodeStep t u) := by
  obtain ⟨c, w, heq, -, -⟩ := decodeStep_eq t u
  rw [heq]
  exact ((h.drive _).ret _).finishTxn t w

theorem engineStep {t : Txn} (h : OpChain s u) (hv : engineStep t u = .next v) : OpChain s v := by
  unfold Machine.engineStep at hv
  split at hv
  · exact h.selectStep hv
  · exact h.writeStep hv
  · cases hv
    exact (h.logCall _).setTxn _
  · exact h.readStep hv
  · cases hv
    exact h.decodeStep t
  · cases hv
    exact h.setCurrent _
  · cases hv
    exact h.setCurrent _

/-! The caller's procedures. -/

theorem encodeEntryOp (e : CommandEntry) (w : Value) (h : OpChain s u) : OpChain s (encodeEntryOp e w u) := by
  obtain ⟨f, heq, -⟩ := encodeEntryOp_eq e w u
  rw [heq]
  exact (h.drive f).ret _

theorem sweepStep (h : OpChain s u) : OpChain s (sweepStep u) := by
  have hlist := (h.drive (drivePos u.sweep.pos)).ret (listAt u.cfg u.sweep.pos)
  unfold Machine.sweepStep
  split
  · split_ifs
    · exact (hlist.encodeEntryOp _ 0).launch _ _
    · exact hlist.sweepAdvance
  · split_ifs
    · exact h.setSweep _
    · exact h.setSweep _

theorem helpStep (n : Nat) (h : OpChain s u) : OpChain s (helpStep n u) := by
  have hlist := (h.drive (drivePos n)).ret (listAt u.cfg n)
  unfold Machine.helpStep
  split
  · exact (hlist.report _).setHelp _
  · exact hlist.setHelp _

theorem lineCommand (k : List Byte) (tok : List Char) (h : OpChain s u) : OpChain s (lineCommand k tok u) := by
  have hlookup : OpChain s (lookupOp (Machine.drive (driveKey k) u)) := (h.drive _).ret _
  unfold Machine.lineCommand
  split_ifs
  · exact h.reject _ _
  · dsimp only
    split
    · split
      · exact ((hlookup.drive _).ret _).launch _ _
      · exact hlookup.reject _ _
    · exact hlookup.reject _ _

theorem lineDacWrite (i w : Int) (h : OpChain s u) : OpChain s (lineDacWrite i w u) := by
  unfold Machine.lineDacWrite
  split
  · exact h.reject _ _
  · exact ((h.drive _).ret _).launch _ _

theorem lineDacRead (i : Int) (h : OpChain s u) : OpChain s (lineDacRead i u) := by
  unfold Machine.lineDacRead
  split
  · exact h.reject _ _
  · exact ((h.drive _).ret _).launch _ _

theorem oneShotStep (d t i w : Int) (h : OpChain s u) : OpChain s (oneShotStep d t i w u) := by
  unfold Machine.oneShotStep
  split
  · exact h.reject _ _
  · exact ((h.drive _).ret _).launch _ _

theorem lineStep (l : Line) (h : OpChain s u) : OpChain s (lineStep l u) := by
  cases l with
  | help => exact h.setHelp _
  | quit => exact h.endSession _
  | command k tok => exact h.lineCommand k tok
  | dacWrite i w => exact h.lineDacWrite i w
  | dacRead i => exact h.lineDacRead i

theorem openStep (h : OpChain s u) (hv : openStep u = .next v) : OpChain s v := by
  rcases openStep_next hv with rfl | ⟨es, rfl⟩ | ⟨es, rfl⟩
  · exact h
  · exact (h.setEvents es).setPort _
  · exact ((h.setEvents es).report _).endSession _

theorem presentWord (ch : Channel) (bytes : List Byte) (h : OpChain s u) : OpChain s (presentWord ch bytes u) := by
  unfold Machine.presentWord
  split
  · exact h.drive _
  · exact h

theorem commandStep {c : Command} (h : OpChain s u) (hv : commandStep c u = .next v) : OpChain s v := by
  unfold Machine.commandStep at hv
  split at hv
  · split_ifs at hv
    · cases hv
      exact h.reject _ _
    · exact (h.drive _).execWord hv
  · exact (h.presentWord _ _).execWord hv
  · cases hv
    exact h.lineStep _
  · cases hv
    exact h.oneShotStep _ _ _ _
  · cases hv
    exact h.setSweep _

theorem callerMove (hv : CallerMove s v) : OpChain s v := by
  cases hv with
  | engine _ hstep => exact refl.engineStep hstep
  | sweep => exact refl.sweepStep
  | help => exact refl.helpStep _
  | stop => exact refl.endSession _
  | nothing => exact refl
  | opening _ _ _ _ _ _ hstep => exact refl.openStep hstep
  | command _ _ _ _ _ _ hstep => exact (refl.takeCommand _).commandStep hstep

end OpChain

/-- Every step is a chain of the named operations. -/
theorem step_opChain {s u : State} (h : step s = .next u) : OpChain s u := by
  rcases step_next h with ⟨-, rfl⟩ | ⟨-, ⟨es, -, rfl⟩ | ⟨es, -, rfl⟩ | ⟨-, hmove⟩⟩
  · exact .refl
  · exact .noteStop es .refl
  · exact .terminateSession (.setEvents es .refl)
  · exact .callerMove hmove

/-- Settles O47: no operation of a step's chain changes a parameter. -/
theorem configurationIsConstant : Obligations.ConfigurationIsConstant := by
  unfold Obligations.ConfigurationIsConstant
  intro s u h
  exact (step_opChain h).cfg_eq

end Sys2Proof.Machine
end

section
/-! PROOFS. What LOOKUP presents, as conditions on the table (R32, R77). -/

namespace Sys2Proof.Machine

/-- An operation leaves a result exactly when it returns that result. -/
theorem exec_eq_next_result_iff {s : State} {i : Instr} {r r' : OpResult} (h : Returns s.cfg s.inp i r) :
    exec i s = .next { s with result := some r' } ↔ r = r' := by
  rw [exec_of_returns h]
  constructor
  · intro heq
    have hstate : ret r s = { s with result := some r' } := Host.Outcome.next.inj heq
    exact Option.some.inj (congrArg State.result hstate)
  · rintro rfl
    rfl

/-- LOOKUP answers an entry exactly when `find` answers its position and the table holds it there. -/
theorem lookup_eq_entry_iff {p : Params} {k : List Byte} {pos : Nat} {e : CommandEntry} :
    lookup p k = .entry pos e ↔ find p k = some pos ∧ p.table[pos]? = some e := by
  constructor
  · intro h
    rcases lookup_cases p k with ⟨-, hl⟩ | ⟨pos', e', hf, he, -, hl⟩
    · cases hl.symm.trans h
    · cases hl.symm.trans h
      exact ⟨hf, he⟩
  · rintro ⟨hf, he⟩
    exact lookup_of_find hf he

/-- LOOKUP answers NotFound exactly when `find` answers no position. -/
theorem lookup_eq_notFound_iff {p : Params} {k : List Byte} :
    lookup p k = .error (.notFound k) ↔ find p k = none := by
  rcases lookup_cases p k with ⟨hf, hl⟩ | ⟨pos, e, hf, -, -, hl⟩ <;> simp [hf, hl]

/-- The entry LOOKUP presents stands at the least position whose mnemonic is the key. -/
theorem lookup_eq_entry_iff_least {p : Params} {k : List Byte} {pos : Nat} {e : CommandEntry} :
    lookup p k = .entry pos e ↔
      p.table[pos]? = some e ∧ e.mnemonic = k ∧
        ∀ q e', q < pos → p.table[q]? = some e' → e'.mnemonic ≠ k := by
  rw [lookup_eq_entry_iff, find_eq_some]
  constructor
  · rintro ⟨⟨e', he', hk, hleast⟩, he⟩
    cases he'.symm.trans he
    exact ⟨he, hk, hleast⟩
  · rintro ⟨he, hk, hleast⟩
    exact ⟨⟨e, he, hk, hleast⟩, he⟩

/-- Settles O20: what LOOKUP leaves is what it returns, and that is decided by `find`. -/
theorem lookupFindsLeastPosition : Obligations.LookupFindsLeastPosition := by
  unfold Obligations.LookupFindsLeastPosition
  refine ⟨fun s p e => ?_, fun s => ?_⟩
  · exact (exec_eq_next_result_iff .lookup).trans lookup_eq_entry_iff_least
  · exact (exec_eq_next_result_iff .lookup).trans (lookup_eq_notFound_iff.trans find_eq_none)

end Sys2Proof.Machine
end

section
/-! PROOFS. The decoder and the encoder undo each other (R46 to R56, R70, R75). -/

namespace Sys2Proof

/-! The words of the `op` port: one byte, the code in its three lower bits (R56). -/

theorem opInstr_wellFormed (op : BitVec 3) : (opInstr op).WellFormed := by
  revert op; decide

theorem encode_opInstr (op : BitVec 3) : encode (opInstr op) = (.opPort, [op.setWidth 8]) := by
  revert op; decide

theorem decode_opCode (op : BitVec 3) : decode .opPort [op.setWidth 8] = .ok (opInstr op) := by
  revert op; decide

/-- A byte with no bit above the code is its code alone. -/
theorem setWidth_opCode {b : Byte} (h : b.extractLsb' 3 5 = 0) : (b.extractLsb' 0 3).setWidth 8 = b := by
  revert b; decide

/-- A byte 0 of a DAC request with the reserved bit clear is its two fields (R60). -/
theorem dacByte0_of_reserved_clear {b : Byte} (h : dacReserved b = 0) : dacByte0 (dacReg b) 0 (dacCtrl b) = b := by
  rw [← h, dacByte0_fields]

theorem decode_encode {i : Instr} (h : i.WellFormed) : decode (encode i).1 (encode i).2 = .ok i := by
  cases i with
  | mcuReq d t i v => simp [encode, decode]
  | mcuRsp p0 p1 v => simp [encode, decode]
  | dacWr r z c v =>
    obtain rfl : z = 0 := eq_of_beq h
    simp [encode, decode]
  | dacRd r z c =>
    obtain rfl : z = 0 := eq_of_beq h
    simp [encode, decode]
  | dacRsp v => simp [encode, decode]
  | encMcu => exact decode_opCode 0
  | decMcu => exact decode_opCode 1
  | encDacWr => exact decode_opCode 2
  | encDacRd => exact decode_opCode 3
  | decDac => exact decode_opCode 4
  | lookup => exact decode_opCode 5
  | list => exact decode_opCode 6
  | encCmd => exact decode_opCode 7

theorem encode_of_decode {ch : Channel} {bytes : List Byte} {i : Instr} (h : decode ch bytes = .ok i) :
    i.WellFormed ∧ encode i = (ch, bytes) := by
  unfold decode at h
  split at h
  case h_1 b =>
    split at h <;> cases h
    case isTrue hupper => exact ⟨opInstr_wellFormed _, by rw [encode_opInstr, setWidth_opCode hupper]⟩
  case h_2 b0 b1 b2 b3 =>
    cases h
    exact ⟨rfl, by simp [encode]⟩
  case h_3 b0 b1 b2 b3 =>
    cases h
    exact ⟨rfl, by simp [encode]⟩
  case h_4 b0 b1 b2 =>
    split at h <;> cases h
    case isTrue hclear =>
      exact ⟨rfl, by rw [encode, dacByte0_of_reserved_clear hclear, hiByte_joinBytes, loByte_joinBytes]⟩
  case h_5 b0 =>
    split at h <;> cases h
    case isTrue hclear => exact ⟨rfl, by rw [encode, dacByte0_of_reserved_clear hclear]⟩
  case h_6 b0 b1 =>
    cases h
    exact ⟨rfl, by simp [encode]⟩
  case h_7 => cases h

/-- Settles O1: an instruction is an op code or a frame whose fields the byte helpers give back. -/
theorem decodeOfEncodeIsIdentity : Obligations.DecodeOfEncodeIsIdentity := by
  unfold Obligations.DecodeOfEncodeIsIdentity
  exact fun _ => decode_encode

/-- Settles O2, along the decoder's branches: what it does not read of a word it has checked to be 0. -/
theorem encodeOfDecodeIsIdentity : Obligations.EncodeOfDecodeIsIdentity := by
  unfold Obligations.EncodeOfDecodeIsIdentity
  exact fun _ _ _ => encode_of_decode

/-! The bits of the byte helpers (R33, R47). -/

theorem getLsbD_hiByte (v : Value) {k : Nat} (hk : k < 8) : (hiByte v).getLsbD k = v.getLsbD (k + 8) := by
  simp [hiByte, hk, Nat.add_comm]

theorem getLsbD_loByte (v : Value) {k : Nat} (hk : k < 8) : (loByte v).getLsbD k = v.getLsbD k := by
  simp [loByte, hk]

theorem getLsbD_mcuByte0_dir (d : BitVec 1) (t : BitVec 7) : (mcuByte0 d t).getLsbD 7 = d.getLsbD 0 :=
  BitVec.getLsbD_append

theorem getLsbD_mcuByte0_type (d : BitVec 1) (t : BitVec 7) {k : Nat} (hk : k < 7) :
    (mcuByte0 d t).getLsbD k = t.getLsbD k :=
  BitVec.getLsbD_append.trans (if_pos hk)

/-- Settles O4: the layout by the bits of each byte; every pattern by the decoder, which accepts any four bytes. -/
theorem mcuRequestLayout : Obligations.McuRequestLayout := by
  unfold Obligations.McuRequestLayout
  refine ⟨fun d t i v => ⟨mcuByte0 d t, hiByte v, loByte v, rfl, getLsbD_mcuByte0_dir d t,
    fun k hk => getLsbD_mcuByte0_type d t hk, fun k hk => getLsbD_hiByte v hk, fun k hk => getLsbD_loByte v hk⟩,
    fun b0 b1 b2 b3 => ?_⟩
  have hdec : decode .hostToMcu [b0, b1, b2, b3] = .ok (.mcuReq (mcuDir b0) (mcuType b0) b1 (joinBytes b2 b3)) := rfl
  exact ⟨_, _, _, _, hdec, (encode_of_decode hdec).2⟩

/-- Settles O3: the decoder evaluated on the literal words. -/
theorem writtenOutWordsDecode : Obligations.WrittenOutWordsDecode := by
  unfold Obligations.WrittenOutWordsDecode
  decide

/-! A DAC request whose reserved bit is set (R60, U2). -/

theorem decode_dacWr_reserved {b0 : Byte} (h : dacReserved b0 ≠ 0) (b1 b2 : Byte) :
    decode .hostToDac [b0, b1, b2] = .error (.reservedBit b0) := if_neg h

theorem decode_dacRd_reserved {b0 : Byte} (h : dacReserved b0 ≠ 0) :
    decode .hostToDac [b0] = .error (.reservedBit b0) := if_neg h

/-- Settles O5: the decoder and the meanings both look at the reserved bit first. -/
theorem reservedBitRefused : Obligations.ReservedBitRefused := by
  unfold Obligations.ReservedBitRefused
  intro r c v s
  have hset : dacReserved (dacByte0 r 1 c) ≠ 0 := by rw [dacReserved_byte0]; decide
  exact ⟨⟨_, decode_dacWr_reserved hset _ _⟩, ⟨_, decode_dacRd_reserved hset⟩, rfl, rfl⟩

end Sys2Proof
end

section
/-! PROOFS. Which operands the block rejects (R63), which statuses it shows (R57), and that DEC_MCU ignores two bytes
(R61). -/

namespace Sys2Proof.Machine

/-! OutOfRange, operation by operation (R106). -/

theorem encMcu_outOfRange_iff {d : BitVec 1} {t i : Byte} {v : Value} :
    (∃ o, encMcu d t i v = .error (.outOfRange o)) ↔ t.toNat > 127 := by
  rcases encMcu_cases d t i v with ⟨ht, h⟩ | ⟨ht, h⟩ <;> simp [h] <;> omega

theorem encDacWr_outOfRange_iff {i : Byte} {c : BitVec 2} {v : Value} :
    (∃ o, encDacWr i c v = .error (.outOfRange o)) ↔ i.toNat > 31 := by
  rcases encDacWr_cases i c v with ⟨hi, h⟩ | ⟨hi, h⟩ <;> simp [h] <;> omega

theorem encDacRd_outOfRange_iff {i : Byte} {c : BitVec 2} :
    (∃ o, encDacRd i c = .error (.outOfRange o)) ↔ i.toNat > 31 := by
  rcases encDacRd_cases i c with ⟨hi, h⟩ | ⟨hi, h⟩ <;> simp [h] <;> omega

/-- A Dac entry above 31 has no frame, in either direction (R81). -/
theorem encodeEntry_dac_outOfRange {p : Params} {e : CommandEntry} (v : Value) (hdac : e.target.peripheral = .dac)
    (hidx : e.target.index.toNat > 31) : ∃ o, encodeEntry p e v = .error (.outOfRange o) := by
  cases hd : e.direction with
  | write =>
    rw [encodeEntry_dac_write p v hdac hd]
    exact encDacWr_outOfRange_iff.mpr hidx
  | read =>
    rw [encodeEntry_dac_read p v hdac hd]
    exact encDacRd_outOfRange_iff.mpr hidx

theorem encCmd_outOfRange_iff {p : Params} {k : List Byte} {v : Value} :
    (∃ o, encCmd p k v = .error (.outOfRange o)) ↔
      ∃ pos e, find p k = some pos ∧ p.table[pos]? = some e ∧ e.target.peripheral = .dac ∧
        e.target.index.toNat > 31 := by
  constructor
  · rintro ⟨o, ho⟩
    rcases encCmd_cases p k v with ⟨-, h⟩ | ⟨pos, e, hfind, he, -, -, ⟨f, -, h⟩ | ⟨hdac, hidx, -⟩⟩
    · cases h.symm.trans ho
    · cases h.symm.trans ho
    · exact ⟨pos, e, hfind, he, hdac, hidx⟩
  · rintro ⟨pos, e, hfind, he, hdac, hidx⟩
    obtain ⟨o, ho⟩ := encodeEntry_dac_outOfRange (p := p) v hdac hidx
    exact ⟨e.target.index.toNat, by simp only [encCmd, lookup_of_find hfind he, ho]⟩

/-- An operation answers OutOfRange exactly for these operands (R63). -/
theorem Returns.outOfRange_iff {p : Params} {x : InPorts} {i : Instr} {r : OpResult} (h : Returns p x i r) :
    (∃ o, r = .error (.outOfRange o)) ↔
      (i = .encMcu ∧ x.ptype.toNat > 127) ∨ (i = .encDacWr ∧ x.index.toNat > 31) ∨
      (i = .encDacRd ∧ x.index.toNat > 31) ∨
      (i = .encCmd ∧ ∃ pos e, find p (keyOf x) = some pos ∧ p.table[pos]? = some e ∧
        e.target.peripheral = .dac ∧ e.target.index.toNat > 31) := by
  cases h with
  | encMcu => simp [encMcu_outOfRange_iff]
  | decMcu => simp
  | encDacWr => simp [encDacWr_outOfRange_iff]
  | encDacRd => simp [encDacRd_outOfRange_iff]
  | decDac => simp
  | lookup => rcases lookup_cases p (keyOf x) with ⟨-, h⟩ | ⟨pos, e, -, -, -, h⟩ <;> simp [h]
  | list => unfold listAt; split <;> simp
  | encCmd => simp [encCmd_outOfRange_iff]

/-- Settles O15: each operation returns, and `Returns.outOfRange_iff` says when with OutOfRange. -/
theorem illegalOperandsAreExactlyThese : Obligations.IllegalOperandsAreExactlyThese := by
  unfold Obligations.IllegalOperandsAreExactlyThese
  intro op s
  obtain ⟨r, hr⟩ := opInstr_returns s.cfg s.inp op
  refine ⟨ret r s, exec_of_returns hr, ?_⟩
  rw [ret_result, ← hr.outOfRange_iff]
  simp

/-- Settles O17: the block raises no other error than these two (R106, R107), and shows 0 with every other result. -/
theorem blockStatusIsOkOrTwoErrors : Obligations.BlockStatusIsOkOrTwoErrors := by
  unfold Obligations.BlockStatusIsOkOrTwoErrors
  intro op s u h
  obtain ⟨r, hr, rfl⟩ := exec_opInstr_next h
  refine ⟨_, outPortsOf_ret r s, ?_⟩
  rcases hr.result_cases with ⟨f, rfl, -⟩ | ⟨v, rfl⟩ | ⟨pos, e, rfl⟩ | rfl | ⟨pos, e, f, n, rfl, -, -⟩ |
    ⟨n, rfl⟩ | rfl
  all_goals simp [outPorts, errStatus]

/-- Settles O10: bytes 2 and 3 alone decide what DEC_MCU returns, and they are driven as they stood. -/
theorem decMcuIgnoresPeerBytes : Obligations.DecMcuIgnoresPeerBytes := by
  unfold Obligations.DecMcuIgnoresPeerBytes
  exact fun s x y => ⟨decMcu s.inp.rx2 s.inp.rx3, exec_of_returns .decMcu, exec_of_returns .decMcu⟩

end Sys2Proof.Machine
end

section
/-! PROOFS. The response frames as instructions (R48, R51): what is received, and what it completes (R92). -/

namespace Sys2Proof.Machine

/-! The two bytes of a value, as a shift and as a truncation (R33). -/

theorem hiByte_eq_shift (v : Value) : hiByte v = (v >>> 8).setWidth 8 := by
  apply BitVec.eq_of_toNat_eq
  simp [hiByte]

theorem loByte_eq_setWidth (v : Value) : loByte v = v.setWidth 8 := by
  apply BitVec.eq_of_toNat_eq
  simp [loByte]

/-- A frame the engine awaits from this peer completes its read. -/
theorem receiveFrame_awaited {peer : Peer} {bytes : Frame} {s : State}
    (h : s.session = .running ∧ (∃ t, s.current = some t ∧ t.peer = peer) ∧ s.txnState = .settled) :
    receiveFrame peer bytes s =
      setTxn .readComplete (logCall (.read s.selectedPeer bytes.length (some bytes)) s) := by
  obtain ⟨hrun, ⟨t, hcur, hpeer⟩, hset⟩ := h
  rcases receiveFrame_cases peer bytes s with ⟨-, heq⟩ | ⟨hnot, -⟩
  · exact heq
  · exact absurd ⟨t, hrun, hcur, hpeer, hset⟩ hnot

/-- A frame nothing awaits changes nothing. -/
theorem receiveFrame_unawaited {peer : Peer} {bytes : Frame} {s : State}
    (h : ¬ (s.session = .running ∧ (∃ t, s.current = some t ∧ t.peer = peer) ∧ s.txnState = .settled)) :
    receiveFrame peer bytes s = s := by
  rcases receiveFrame_cases peer bytes s with ⟨⟨t, hrun, hcur, hpeer, hset⟩, -⟩ | ⟨-, heq⟩
  · exact absurd ⟨hrun, ⟨t, hcur, hpeer⟩, hset⟩ h
  · exact heq

/-- Settles O29: a response frame is decoded in every state, then received. -/
theorem responseFramesComplete : Obligations.ResponseFramesComplete := by
  unfold Obligations.ResponseFramesComplete
  intro s p0 p1 v
  rw [← hiByte_eq_shift, ← loByte_eq_setWidth]
  exact ⟨⟨_, exec_mcuRsp p0 p1 v s, fun h => receiveFrame_awaited h, fun h => receiveFrame_unawaited h⟩,
    ⟨_, exec_dacRsp v s, fun h => receiveFrame_awaited h, fun h => receiveFrame_unawaited h⟩⟩

end Sys2Proof.Machine
end

section
/-! PROOFS. What the next step does where the caller is ready, and that it runs the instruction its word decodes to. -/

namespace Sys2Proof.Machine

/-- Settles O49: the step looks at the session before anything else. -/
theorem endedSessionDoesNothing : Obligations.EndedSessionDoesNothing := by
  unfold Obligations.EndedSessionDoesNothing
  intro s h
  unfold step machineStep
  cases hs : s.session with
  | running => exact absurd hs h
  | ended e => rfl
  | terminated => rfl

/-- With no request from outside pending, a step of a running session is the caller's. -/
theorem step_eq_callerStep {s : State} (hrun : s.session = .running)
    (hreq : ∀ e es, s.events = e :: es → isOutsideRequest e = false) : step s = callerStep s := by
  unfold step machineStep
  simp only [hrun]
  split
  · exact absurd (hreq _ _ ‹_›) (by decide)
  · exact absurd (hreq _ _ ‹_›) (by decide)
  · rfl

/-- With a transaction in flight, a step is the engine's. -/
theorem callerStep_inflight {s : State} {t : Txn} (h : s.current = some t) : callerStep s = engineStep t s := by
  unfold callerStep
  rw [h]

/-- Where the caller is ready and the port is not wanting, a step takes the next command. -/
theorem step_command {s : State} {c : Command} {cs : List Command} (h : Ready s) (hprog : s.program = c :: cs)
    (hport : needsPort c = true → s.port = .opened) : step s = commandStep c { s with program := cs } := by
  rw [step_eq_callerStep h.running h.noRequest]
  unfold callerStep
  have hopen : ¬ (needsPort c = true ∧ s.port ≠ .opened) := fun hn => hn.2 (hport hn.1)
  simp only [h.noTxn, h.noSweep, h.noHelp, h.noStop, hprog, if_neg hopen, Bool.false_eq_true, if_false]

theorem engineStep_settled {s : State} {t : Txn} (h : s.txnState = .settled) : engineStep t s = readStep t s := by
  unfold engineStep
  rw [h]

/-- A read that returns all it was asked for executes what it returned, on the peer's interface (R92). -/
theorem readStep_full {s : State} {t : Txn} {bs : List Byte} {es : List Event} (hev : s.events = .received (some bs) :: es)
    (hlen : bs.length = respLen t.peer) :
    readStep t s = execWord (responseChannel t.peer) bs (setEvents es s) := by
  simp [readStep, hev, hlen]

theorem execWord_decoded {ch : Channel} {bytes : List Byte} {i : Instr} (h : decode ch bytes = .ok i) (s : State) :
    execWord ch bytes s = exec i s := by
  simp only [execWord, h]

/-- A frame drives no port by being presented. -/
theorem presentWord_frame {ch : Channel} (h : ch ≠ .opPort) (bytes : List Byte) (s : State) :
    presentWord ch bytes s = s := by
  cases ch with
  | opPort => exact absurd rfl h
  | _ => rfl

theorem needsPort_word {ch : Channel} {bytes : List Byte} :
    needsPort (.word ch bytes) = true ↔ ch = .hostToMcu ∨ ch = .hostToDac := by
  cases ch <;> simp [needsPort]

/-- The step that takes a word runs the instruction it decodes to, on the state with the word presented. -/
theorem step_word {s : State} {ch : Channel} {bytes : List Byte} {cs : List Command} {i : Instr} (h : Ready s)
    (hprog : s.program = .word ch bytes :: cs) (hport : ch = .hostToMcu ∨ ch = .hostToDac → s.port = .opened)
    (hdec : decode ch bytes = .ok i) : step s = exec i (presentWord ch bytes { s with program := cs }) := by
  rw [step_command h hprog (fun hn => hport (needsPort_word.mp hn))]
  exact execWord_decoded hdec _

/-- The step that takes an evaluation of the ports' shape drives it and runs its operation. -/
theorem step_eval {s : State} {p : InPorts} {cs : List Command} (h : Ready s) (hprog : s.program = .eval p :: cs)
    (hfit : PortsFit s.cfg p) : step s = exec (opInstr p.op) { s with program := cs, inp := p } := by
  have hkey : ¬ (readsKey p.op = true ∧ s.cfg.mnemMax < p.keyLen) := fun hn => absurd hfit.2 (by omega)
  calc step s = commandStep (.eval p) { s with program := cs } := step_command h hprog (by simp [needsPort])
    _ = execWord .opPort [p.op.setWidth 8] (drive (fitPorts s.cfg p) { s with program := cs }) := if_neg hkey
    _ = exec (opInstr p.op) (drive (fitPorts s.cfg p) { s with program := cs }) := execWord_decoded (decode_opCode p.op) _
    _ = exec (opInstr p.op) { s with program := cs, inp := p } := by rw [drive, fitPorts_eq hfit]

/-- The step at which a read returns a whole response frame runs that frame. -/
theorem step_read {s : State} {t : Txn} {bs : List Byte} {es : List Event} {i : Instr} (hrun : s.session = .running)
    (hcur : s.current = some t) (hset : s.txnState = .settled) (hev : s.events = .received (some bs) :: es)
    (hlen : bs.length = respLen t.peer) (hdec : decode (responseChannel t.peer) bs = .ok i) :
    step s = exec i { s with events := es } := by
  have hreq : ∀ e es', s.events = e :: es' → isOutsideRequest e = false := by
    rw [hev]
    rintro _ _ ⟨⟩
    rfl
  rw [step_eq_callerStep hrun hreq, callerStep_inflight hcur]
  calc engineStep t s = readStep t s := engineStep_settled hset
    _ = execWord (responseChannel t.peer) bs (setEvents es s) := readStep_full hev hlen
    _ = exec i { s with events := es } := execWord_decoded hdec _

/-- Settles O31: the two fetch points, a word's by its interface. -/
theorem stepRunsDecodedInstruction : Obligations.StepRunsDecodedInstruction := by
  unfold Obligations.StepRunsDecodedInstruction
  refine ⟨fun s p cs => step_eval, fun s b cs i hready hprog hdec => ?_,
    fun s ch bytes cs i hready hprog hch hdec hport => ?_, fun s t bs es i => step_read⟩
  · exact step_word hready hprog (by simp) hdec
  · rw [step_word hready hprog hport hdec, presentWord_frame hch]

/-! A word placed by `withFetchWord` (log entry 21). -/

/-- What is placed stands before the program, with nothing that a step would do before it. -/
theorem withFetchWord_ready (s : State) (nbits w : Nat) : Ready (s.withFetchWord nbits w) where
  running := rfl
  noRequest e es h := by
    have := List.head?_dropWhile_not isOutsideRequest s.events
    rw [show s.events.dropWhile isOutsideRequest = e :: es from h] at this
    simpa using this
  noTxn := rfl
  noSweep := rfl
  noHelp := rfl
  noStop := rfl

theorem withFetchWord_port {s : State} {nbits w : Nat} (h : needsPort (fetchCommand nbits w) = true) :
    (s.withFetchWord nbits w).port = .opened := if_pos h

/-- A table word that decodes stands on an interface, on which it decodes. -/
theorem decodeTableWord_eq_some {nbits w : Nat} {i : Instr} (h : decodeTableWord nbits w = some i) :
    ∃ ch bytes, tableWord nbits w = some (ch, bytes) ∧ decode ch bytes = .ok i := by
  unfold decodeTableWord at h
  split at h
  case h_1 => cases h
  case h_2 ch bytes hword =>
    refine ⟨ch, bytes, hword, ?_⟩
    cases hdec : decode ch bytes with
    | error e => rw [hdec] at h; cases h
    | ok j => rw [hdec] at h; cases h; rfl

/-- A table word on the `op` port is one byte. -/
theorem tableWord_opPort {nbits w : Nat} {bytes : List Byte} (h : tableWord nbits w = some (.opPort, bytes)) :
    bytes = [BitVec.ofNat 8 w] := by
  unfold tableWord at h
  split_ifs at h <;> cases h
  rfl

theorem opCode_ofNat (w : Nat) : (BitVec.ofNat 8 w).extractLsb' 0 3 = BitVec.ofNat 3 w := by
  apply BitVec.eq_of_toNat_eq
  simp

/-- Settles O32: the placed word's command is next, and presenting it drives `op` only on the `op` port. -/
theorem placedWordRunsNext : Obligations.PlacedWordRunsNext := by
  unfold Obligations.PlacedWordRunsNext
  intro s nbits w i h
  obtain ⟨ch, bytes, hword, hdec⟩ := decodeTableWord_eq_some h
  have hfetch : fetchCommand nbits w = .word ch bytes := by simp only [fetchCommand, hword]
  have hprog : (s.withFetchWord nbits w).program = .word ch bytes :: s.program := by
    simp only [State.withFetchWord, hfetch]
  have hstep := step_word (withFetchWord_ready s nbits w) hprog
    (fun hch => withFetchWord_port (hfetch ▸ needsPort_word.mpr hch)) hdec
  by_cases hch : ch = .opPort
  · subst hch
    obtain rfl := tableWord_opPort hword
    refine ⟨_, .inr rfl, hstep.trans ?_⟩
    rw [presentWord, opCode_ofNat]
    rfl
  · refine ⟨_, .inl rfl, hstep.trans ?_⟩
    rw [presentWord_frame hch]
    rfl

end Sys2Proof.Machine
end

section
/-! PROOFS. The caller's own commands where its session is ready: `Q`, the sweep's start, a mnemonic line, the one-shot mode
and the enumeration of `H` (R65, R66, R79, R98). -/

namespace Sys2Proof.Machine

/-- Where the session is ready, a step takes the next command. -/
theorem SessionReady.step_command {s : State} {c : Command} {cs : List Command} (h : SessionReady s)
    (hprog : s.program = c :: cs) : step s = commandStep c { s with program := cs } :=
  Machine.step_command h.toReady hprog fun _ => h.portOpen

theorem SessionReady.step_line {s : State} {l : Line} {cs : List Command} (h : SessionReady s)
    (hprog : s.program = .line l :: cs) : step s = .next (lineStep l { s with program := cs }) :=
  h.step_command hprog

/-- Settles O60: both commands are next where the session is ready, and its opened port is what `Q` releases. -/
theorem quitAndSweepCommands : Obligations.QuitAndSweepCommands := by
  unfold Obligations.QuitAndSweepCommands
  intro s cs h
  refine ⟨fun hprog => ?_, fun hprog => h.step_command hprog⟩
  rw [h.step_line hprog]
  simp [lineStep, endSession, h.portOpen, releasedPort, h.noTxn, h.noHelp]

/-! A mnemonic line (R81, R82). -/

/-- The entry ENC_CMD answers is the one LOOKUP presents. -/
theorem lookup_of_encCmd {p : Params} {k : List Byte} {v : Value} {pos : Nat} {e : CommandEntry} {f : Frame} {n : Nat}
    (h : encCmd p k v = .command pos e f n) : lookup p k = .entry pos e := by
  rcases encCmd_cases p k v with ⟨-, h'⟩ | ⟨pos', e', -, -, -, hl, ⟨f', -, h'⟩ | ⟨-, -, h'⟩⟩ <;> cases h'.symm.trans h
  exact hl

/-- A line that ENC_CMD encodes begins its entry's transaction, on the ports of LOOKUP and then ENC_CMD. -/
theorem lineCommand_begins {s : State} {k : List Byte} {tok : List Char} {pos : Nat} {e : CommandEntry} {v : Value}
    {f : Frame} {n : Nat} (hlen : k.length ≤ s.cfg.mnemMax) (hval : parseValue tok = .ok v)
    (henc : encCmd s.cfg k v = .command pos e f n) :
    lineCommand k tok s = beginTxn (peerOf e.target.peripheral) f .line
      (ret (.command pos e f n) (drive (driveValue v) (lookupOp (drive (driveKey k) s)))) := by
  have hop (u : State) (hu : encCmd u.cfg (keyOf u.inp) u.inp.value = .command pos e f n) :
      encCmdOp u = ret (.command pos e f n) u := by rw [encCmdOp_eq, hu]
  have hkey : keyOf (driveValue v (driveKey k s.inp)) = k := keyOf_driveKey k s.inp
  unfold lineCommand
  rw [if_neg (by omega)]
  simp only [lookup_of_encCmd henc, hval]
  rw [hop, launch_command]
  exact hkey.symm ▸ henc

/-- Settles O55: the line is taken, and `lineCommand_begins` says what it begins. -/
theorem commandLineBeginsTransaction : Obligations.CommandLineBeginsTransaction := by
  unfold Obligations.CommandLineBeginsTransaction
  intro s k tok cs pos e v f n h hprog hlen hval henc
  have hline := lineCommand_begins (s := { s with program := cs }) hlen hval henc
  exact ⟨_, (h.step_line hprog).trans (congrArg Host.Outcome.next hline), rfl, rfl, rfl, rfl, rfl, rfl⟩

/-! The one-shot mode (R66, R97). -/

/-- The integer `firstMisfit` answers is one of them, and does not fit. -/
theorem firstMisfit_some {l : List (Int × Nat)} {n : Int} (h : firstMisfit l = some n) :
    ∃ b, (n, b) ∈ l ∧ ¬ (0 ≤ n ∧ n ≤ (b : Int)) := by
  induction l with
  | nil => cases h
  | cons x l ih =>
    obtain ⟨m, b⟩ := x
    unfold firstMisfit at h
    split at h
    case isTrue =>
      obtain ⟨b', hmem, hn⟩ := ih h
      exact ⟨b', List.mem_cons_of_mem _ hmem, hn⟩
    case isFalse hn =>
      cases h
      exact ⟨b, List.mem_cons_self, hn⟩

/-- The one-shot mode's integers with the bounds of their ports, in the descriptor's order (R97). -/
def oneShotOperands (d t i v : Int) : List (Int × Nat) :=
  [(d, 1), (t, 255), (i, Config.mcuIndexMax), (v, Config.valueMax)]

theorem oneShotStep_misfit {d t i v n : Int} (h : firstMisfit (oneShotOperands d t i v) = some n) (s : State) :
    oneShotStep d t i v s = reject .oneShot (.outOfRange n) s := by
  unfold oneShotOperands at h
  simp only [oneShotStep, h]

/-- Integers that fit their ports are driven on them, and ENC_MCU's answer decides. -/
theorem oneShotStep_fits {d t i v : Int} (h : firstMisfit (oneShotOperands d t i v) = none) (s : State) :
    oneShotStep d t i v s = launch .mcu .oneShot (ret (encMcu (dirOf d) (byteOf t) (byteOf i) (valueOf v))
      (drive (driveMcu (dirOf d) (byteOf t) (byteOf i) (valueOf v)) s)) := by
  unfold oneShotOperands at h
  simp only [oneShotStep, h]
  rfl

theorem toNat_byteOf {n : Int} (h : 0 ≤ n ∧ n ≤ 255) : (byteOf n).toNat = n.toNat := by
  simp only [byteOf, BitVec.toNat_ofNat]
  omega

theorem oneShotOperands_fit {d t i v : Int} : firstMisfit (oneShotOperands d t i v) = none ↔
    (0 ≤ d ∧ d ≤ 1) ∧ (0 ≤ t ∧ t ≤ 255) ∧ (0 ≤ i ∧ i ≤ 255) ∧ (0 ≤ v ∧ v ≤ 65535) := by
  simp [firstMisfit_none, oneShotOperands, Config.mcuIndexMax, Config.valueMax]

theorem encMcu_of_legal {d : BitVec 1} {t i : Byte} {v : Value} (ht : t.toNat ≤ 127) :
    ∃ f, encMcu d t i v = .frame f := by
  rcases encMcu_cases d t i v with ⟨h, -⟩ | ⟨-, h⟩
  · omega
  · exact ⟨_, h⟩

theorem encMcu_of_illegal {d : BitVec 1} {t i : Byte} {v : Value} (ht : t.toNat > 127) :
    encMcu d t i v = .error (.outOfRange t.toNat) := by
  rcases encMcu_cases d t i v with ⟨-, h⟩ | ⟨h, -⟩
  · exact h
  · omega

/-- Settles O57: the host looks at every integer first, then the block at the type. -/
theorem oneShotBeginsOrRejects : Obligations.OneShotBeginsOrRejects := by
  unfold Obligations.OneShotBeginsOrRejects
  intro s d t i v cs h hprog
  have hstep : step s = .next (oneShotStep d t i v { s with program := cs }) := h.step_command hprog
  refine ⟨fun hd ht hi hv => ?_, fun hbad => ?_⟩
  · have htype : (byteOf t).toNat ≤ 127 := by
      rw [toNat_byteOf (by omega)]
      omega
    obtain ⟨f, hf⟩ := encMcu_of_legal (d := dirOf d) (i := byteOf i) (v := valueOf v) htype
    rw [oneShotStep_fits (oneShotOperands_fit.mpr (by omega)), hf] at hstep
    exact ⟨_, f, hstep, rfl, rfl, rfl, hf⟩
  · cases hfit : firstMisfit (oneShotOperands d t i v) with
    | some n =>
      rw [oneShotStep_misfit hfit] at hstep
      obtain ⟨b, hmem, hn⟩ := firstMisfit_some hfit
      refine ⟨_, n, hstep, rfl, rfl, rfl, rfl, ?_⟩
      simp only [oneShotOperands, Config.mcuIndexMax, Config.valueMax, List.mem_cons, Prod.mk.injEq,
        List.not_mem_nil, or_false] at hmem
      omega
    | none =>
      obtain ⟨hd, ht, hi, hv⟩ := oneShotOperands_fit.mp hfit
      have htype : (byteOf t).toNat = t.toNat := toNat_byteOf ht
      rw [oneShotStep_fits hfit, encMcu_of_illegal (by omega)] at hstep
      exact ⟨_, _, hstep, rfl, rfl, rfl, rfl, by omega⟩

/-! The enumeration of `H` (R79). -/

theorem run_of_step {s u : State} (h : step s = .next u) (k : Nat) : core.run (k + 1) s = core.run k u := by
  have hcore : core.step s = .next u := h
  simp only [Host.Core.run, hcore]

/-- `H` is under way at a position, and the next step goes on with it. -/
structure Listing (s : State) (n : Nat) : Prop where
  running   : s.session = .running
  noRequest : ∀ e es, s.events = e :: es → isOutsideRequest e = false
  noTxn     : s.current = none
  noSweep   : s.sweep.active = false
  position  : s.help = some n

/-- While `H` is under way, a step presents its position. -/
theorem Listing.step_eq {s : State} {n : Nat} (h : Listing s n) : step s = .next (helpStep n s) := by
  rw [step_eq_callerStep h.running h.noRequest]
  unfold callerStep
  simp only [h.noTxn, h.noSweep, h.position, Bool.false_eq_true, if_false]

theorem helpStep_entry {s : State} {n : Nat} {e : CommandEntry} (h : tableRead s.cfg n = some e) :
    helpStep n s = setHelp (some (n + 1)) (report (.listed n e) (listOp (drive (drivePos n) s))) := by
  simp only [helpStep, h]

theorem helpStep_end {s : State} {n : Nat} (h : tableRead s.cfg n = none) :
    helpStep n s = setHelp none (listOp (drive (drivePos n) s)) := by
  simp only [helpStep, h]

/-- What stands when `H` has ended, with these entries reported from a position on. -/
structure Listed (s u : State) (n : Nat) (rest : List CommandEntry) : Prop where
  help    : u.help = none
  busLog  : u.busLog = s.busLog
  current : u.current = none
  session : u.session = .running
  program : u.program = s.program
  reports : u.reports = s.reports ++ (rest.zipIdx n).map fun x => .listed x.2 x.1

/-- From a position, `H` reports the rest of the table and ends. -/
theorem Listing.run {s : State} {n : Nat} {rest : List CommandEntry} (h : Listing s n)
    (hrest : s.cfg.table.drop n = rest) :
    ∃ u, core.run (rest.length + 1) s = .next u ∧ Listed s u n rest := by
  induction rest generalizing s n with
  | nil =>
    have hread : tableRead s.cfg n = none := List.getElem?_eq_none (List.drop_eq_nil_iff.mp hrest)
    have hstep := h.step_eq
    rw [helpStep_end hread] at hstep
    exact ⟨_, run_of_step hstep 0, rfl, rfl, h.noTxn, h.running, rfl, (List.append_nil _).symm⟩
  | cons e rest ih =>
    have hread : tableRead s.cfg n = some e := by
      rw [tableRead, ← List.head?_drop, hrest, List.head?_cons]
    have hstep := h.step_eq
    rw [helpStep_entry hread] at hstep
    have hnext : Listing (setHelp (some (n + 1)) (report (.listed n e) (listOp (drive (drivePos n) s)))) (n + 1) :=
      ⟨h.running, h.noRequest, h.noTxn, h.noSweep, rfl⟩
    have htail : s.cfg.table.drop (n + 1) = rest := by rw [← List.tail_drop, hrest, List.tail_cons]
    obtain ⟨u, hrun, hu⟩ := ih hnext htail
    refine ⟨u, (run_of_step hstep _).trans hrun, hu.help, hu.busLog, hu.current, hu.session, hu.program, ?_⟩
    rw [hu.reports]
    simp [listOp_eq]

/-- Settles O59: one step takes the line, and `Listing.run` from position 0 is the rest. -/
theorem helpListsWholeTable : Obligations.HelpListsWholeTable := by
  unfold Obligations.HelpListsWholeTable
  intro s cs h hprog
  have hbegin : Listing (setHelp (some 0) { s with program := cs }) 0 :=
    ⟨h.running, h.noRequest, h.noTxn, h.noSweep, rfl⟩
  obtain ⟨u, hrun, hu⟩ := hbegin.run List.drop_zero
  exact ⟨u, (run_of_step (h.step_line hprog) _).trans hrun, hu.help, hu.busLog, hu.current, hu.session, hu.program,
    hu.reports⟩

end Sys2Proof.Machine
end

section
/-! PROOFS. The microcontroller codec (R67 to R69), and the two decoders as numbers (R68, R73). -/

namespace Sys2Proof.Machine

/-- R67's byte 0: the direction shifted up to bit 7, over the type's seven lower bits. -/
theorem mcuByte0_eq_shift (d : BitVec 1) (t : Byte) :
    mcuByte0 d (t.extractLsb' 0 7) = (d.setWidth 8 <<< 7) ||| (t &&& 0x7F) := by
  revert d t; decide

/-- A legal type is its seven lower bits (R67). -/
theorem setWidth_type {t : Byte} (h : t.toNat ≤ 127) : (t.extractLsb' 0 7).setWidth 8 = t := by
  apply BitVec.eq_of_toNat_eq
  simp
  omega

/-- ENC_MCU with R67's pseudocode: the guard, and the bytes by shift and mask. -/
theorem encMcu_eq_pseudocode (d : BitVec 1) (t i : Byte) (v : Value) :
    encMcu d t i v = if t.toNat > 127 then .error (.outOfRange t.toNat)
      else .frame [(d.setWidth 8 <<< 7) ||| (t &&& 0x7F), i, (v >>> 8).setWidth 8, v.setWidth 8] := by
  rw [← mcuByte0_eq_shift, ← hiByte_eq_shift, ← loByte_eq_setWidth]
  rfl

/-- Settles O6: ENC_MCU puts what `encMcu` answers on the ports, which is the pseudocode's answer. -/
theorem encMcuCompletes : Obligations.EncMcuCompletes := by
  unfold Obligations.EncMcuCompletes
  intro s
  rw [← encMcu_eq_pseudocode]
  exact exec_of_returns .encMcu

/-- For a legal type ENC_MCU answers the MCU_REQ frame of its operands (R47, R67). -/
theorem encMcu_eq_encode {t : Byte} (ht : t.toNat ≤ 127) (d : BitVec 1) (i : Byte) (v : Value) :
    encMcu d t i v = .frame (encode (.mcuReq d (t.extractLsb' 0 7) i v)).2 := by
  rcases encMcu_cases d t i v with ⟨habove, -⟩ | ⟨-, hframe⟩
  · omega
  · exact hframe

/-- DEC_MCU of the two value bytes is the value, whatever the peer's bytes before them (R61). -/
theorem exec_decMcu_of_valueBytes (x y : Byte) (v : Value) (s : State) :
    exec .decMcu (drive (driveRx4 x y (hiByte v) (loByte v)) s) =
      .next (ret (.value v) (drive (driveRx4 x y (hiByte v) (loByte v)) s)) :=
  (exec_of_returns .decMcu).trans (congrArg (fun w => Host.Outcome.next (ret (.value w) _)) (joinBytes_hi_lo v))

/-- Settles O11: a legal type's frame ends in the value's two bytes, and DEC_MCU joins them. -/
theorem mcuCodecRoundTrip : Obligations.McuCodecRoundTrip := by
  unfold Obligations.McuCodecRoundTrip
  intro s ht
  exact ⟨_, _, _, _, _, exec_of_returns .encMcu, congrArg some (encMcu_eq_encode ht _ _ _),
    fun x y => exec_decMcu_of_valueBytes x y s.inp.value _⟩

/-- The frame of an MCU_REQ decodes to it, so no other has this frame (R70). -/
theorem mcuReq_of_encode_eq {d d' : BitVec 1} {t t' : BitVec 7} {i i' : Byte} {v v' : Value}
    (h : (encode (.mcuReq d t i v)).2 = (encode (.mcuReq d' t' i' v')).2) :
    Instr.mcuReq d t i v = .mcuReq d' t' i' v' := by
  have hdec : decode .hostToMcu _ = .ok (.mcuReq d t i v) := decode_encode (i := .mcuReq d t i v) rfl
  have hdec' : decode .hostToMcu _ = .ok (.mcuReq d' t' i' v') := decode_encode (i := .mcuReq d' t' i' v') rfl
  exact Except.ok.inj (hdec.symm.trans (h ▸ hdec'))

/-- Settles O12: equal answers are one MCU_REQ's frame, and a legal type is its seven lower bits. -/
theorem encMcuInjective : Obligations.EncMcuInjective := by
  unfold Obligations.EncMcuInjective
  intro d d' t t' i i' v v' ht ht' h
  rw [encMcu_eq_encode ht, encMcu_eq_encode ht'] at h
  obtain ⟨hd, htype, hi, hv⟩ := Instr.mcuReq.inj (mcuReq_of_encode_eq (OpResult.frame.inj h))
  exact ⟨hd, by rw [← setWidth_type ht, htype, setWidth_type ht'], hi, hv⟩

/-- Settles O9: each decoder returns its two bytes joined, and `toNat_joinBytes` is their number. -/
theorem decodersComplete : Obligations.DecodersComplete := by
  unfold Obligations.DecodersComplete
  exact fun s => ⟨⟨_, exec_of_returns .decMcu, toNat_joinBytes _ _⟩, ⟨_, exec_of_returns .decDac, toNat_joinBytes _ _⟩⟩

end Sys2Proof.Machine
end

section
/-! PROOFS. The DAC codec (R71 to R74): both requests by the pseudocode, and the echo of a write's value. -/

namespace Sys2Proof.Machine

/-- Byte 0 of a DAC request: the index shifted up to bit 3, over the control code; bit 2 stays 0 (R60, decision D6). -/
theorem dacByte0_eq_shift (i : Byte) (c : BitVec 2) :
    dacByte0 (i.extractLsb' 0 5) 0 c = (i <<< 3) ||| c.setWidth 8 := by
  revert i c; decide

/-- ENC_DAC_WR with R71's pseudocode: the guard, and the bytes by shift. -/
theorem encDacWr_eq_pseudocode (i : Byte) (c : BitVec 2) (v : Value) :
    encDacWr i c v = if i.toNat > 31 then .error (.outOfRange i.toNat)
      else .frame [(i <<< 3) ||| c.setWidth 8, (v >>> 8).setWidth 8, v.setWidth 8] := by
  rw [← dacByte0_eq_shift, ← hiByte_eq_shift, ← loByte_eq_setWidth]
  rfl

/-- ENC_DAC_RD with R72's pseudocode: the guard, and the one byte by shift. -/
theorem encDacRd_eq_pseudocode (i : Byte) (c : BitVec 2) :
    encDacRd i c = if i.toNat > 31 then .error (.outOfRange i.toNat) else .frame [(i <<< 3) ||| c.setWidth 8] := by
  rw [← dacByte0_eq_shift]
  rfl

/-- Settles O7: ENC_DAC_WR puts what `encDacWr` answers on the ports, which is the pseudocode's answer. -/
theorem encDacWrCompletes : Obligations.EncDacWrCompletes := by
  unfold Obligations.EncDacWrCompletes
  intro s
  rw [← encDacWr_eq_pseudocode]
  exact exec_of_returns .encDacWr

/-- Settles O8: ENC_DAC_RD puts what `encDacRd` answers on the ports, which is the pseudocode's answer. -/
theorem encDacRdCompletes : Obligations.EncDacRdCompletes := by
  unfold Obligations.EncDacRdCompletes
  intro s
  rw [← encDacRd_eq_pseudocode]
  exact exec_of_returns .encDacRd

/-! Each request on the two sides of the guard: a legal index is answered by its frame row's bytes (R49, R50), any other by
OutOfRange. -/

theorem encDacWr_eq_encode {i : Byte} (hi : i.toNat ≤ 31) (c : BitVec 2) (v : Value) :
    encDacWr i c v = .frame (encode (.dacWr (i.extractLsb' 0 5) 0 c v)).2 := by
  rcases encDacWr_cases i c v with ⟨habove, -⟩ | ⟨-, hframe⟩
  · omega
  · exact hframe

theorem encDacRd_eq_encode {i : Byte} (hi : i.toNat ≤ 31) (c : BitVec 2) :
    encDacRd i c = .frame (encode (.dacRd (i.extractLsb' 0 5) 0 c)).2 := by
  rcases encDacRd_cases i c with ⟨habove, -⟩ | ⟨-, hframe⟩
  · omega
  · exact hframe

theorem encDacWr_eq_outOfRange {i : Byte} (hi : i.toNat > 31) (c : BitVec 2) (v : Value) :
    encDacWr i c v = .error (.outOfRange i.toNat) := by
  rcases encDacWr_cases i c v with ⟨-, herror⟩ | ⟨hlegal, -⟩
  · exact herror
  · omega

theorem encDacRd_eq_outOfRange {i : Byte} (hi : i.toNat > 31) (c : BitVec 2) :
    encDacRd i c = .error (.outOfRange i.toNat) := by
  rcases encDacRd_cases i c with ⟨-, herror⟩ | ⟨hlegal, -⟩
  · exact herror
  · omega

/-- DEC_DAC of the two value bytes is the value (R73). -/
theorem exec_decDac_of_valueBytes (v : Value) (s : State) :
    exec .decDac (drive (driveRx2 (hiByte v) (loByte v)) s) =
      .next (ret (.value v) (drive (driveRx2 (hiByte v) (loByte v)) s)) :=
  (exec_of_returns .decDac).trans (congrArg (fun w => Host.Outcome.next (ret (.value w) _)) (joinBytes_hi_lo v))

/-- R74, first half: a legal index's write frame ends in the value's two bytes, and DEC_DAC joins them. -/
theorem decDac_of_encDacWr (s : State) (hi : s.inp.index.toNat ≤ 31) : ∃ f0 f1 f2 : Byte, ∃ u : State,
    exec .encDacWr s = .next u ∧ u.result = some (.frame [f0, f1, f2]) ∧
    exec .decDac (drive (driveRx2 f1 f2) u) = .next (ret (.value s.inp.value) (drive (driveRx2 f1 f2) u)) :=
  ⟨_, _, _, _, exec_of_returns .encDacWr, congrArg some (encDacWr_eq_encode hi _ _),
    exec_decDac_of_valueBytes s.inp.value _⟩

/-- R74, second half, for every index past the last legal one: both requests answer OutOfRange with it. -/
theorem exec_encDac_outOfRange (s : State) (hi : s.inp.index.toNat > 31) :
    exec .encDacWr s = .next (ret (.error (.outOfRange s.inp.index.toNat)) s) ∧
    exec .encDacRd s = .next (ret (.error (.outOfRange s.inp.index.toNat)) s) :=
  ⟨encDacWr_eq_outOfRange hi s.inp.ctrl s.inp.value ▸ exec_of_returns .encDacWr,
    encDacRd_eq_outOfRange hi s.inp.ctrl ▸ exec_of_returns .encDacRd⟩

/-- Settles O13, by the two halves of R74; 32 is past the last legal index. -/
theorem dacCodecRoundTrip : Obligations.DacCodecRoundTrip := by
  unfold Obligations.DacCodecRoundTrip
  refine ⟨decDac_of_encDacWr, fun s hindex => ?_⟩
  have hnum : s.inp.index.toNat = 32 := congrArg BitVec.toNat hindex
  have hboth := exec_encDac_outOfRange s (by omega)
  rwa [hnum] at hboth

/-- Settles O14: both requests of a legal index begin with the same `dacByte0`. -/
theorem readTriggerIsByteZeroOfWrite : Obligations.ReadTriggerIsByteZeroOfWrite := by
  unfold Obligations.ReadTriggerIsByteZeroOfWrite
  intro i c v hi
  exact ⟨_, _, _, encDacWr_eq_encode hi c v, encDacRd_eq_encode hi c⟩

end Sys2Proof.Machine
end

section
/-! PROOFS. The Command Table's operations: what LOOKUP and LIST present and how they agree (R77 to R80), and what ENC_CMD
answers by the entry its key finds (R81, R82). -/

namespace Sys2Proof.Machine

/-! LOOKUP (R77, R78). -/

/-- LOOKUP answers an entry, or NotFound with its key (R78 (a)). -/
theorem lookup_eq_entry_or_notFound (p : Params) (k : List Byte) :
    (∃ pos e, lookup p k = .entry pos e) ∨ lookup p k = .error (.notFound k) := by
  rcases lookup_cases p k with ⟨-, h⟩ | ⟨pos, e, -, -, -, h⟩
  · exact .inr h
  · exact .inl ⟨pos, e, h⟩

/-- In a table with distinct mnemonics an entry's own mnemonic looks it up (R78 (b)). -/
theorem lookup_of_nodup {p : Params} (hdistinct : (p.table.map (·.mnemonic)).Nodup) {pos : Nat} {e : CommandEntry}
    (he : p.table[pos]? = some e) : lookup p e.mnemonic = .entry pos e :=
  lookup_of_find (find_of_nodup hdistinct he) he

/-- Settles O21: `lookup` reads the parameters and the key only, so it is repeatable; a mnemonic finds its own position. -/
theorem lookupLaws : Obligations.LookupLaws := by
  unfold Obligations.LookupLaws
  refine ⟨fun s => ?_, fun s pos e hwf he hkey => ?_⟩
  · exact ⟨_, exec_of_returns .lookup, lookup_eq_entry_or_notFound s.cfg (keyOf s.inp), exec_of_returns .lookup,
      lookup_eq_notFound_iff.trans find_eq_none⟩
  · obtain ⟨hdistinct, -, -, -⟩ := hwf
    have hentry : lookup s.cfg (keyOf s.inp) = .entry pos e := hkey ▸ lookup_of_nodup hdistinct he
    exact hentry ▸ exec_of_returns .lookup

/-- The two keys that no entry of a well-formed table has (R24 (c), (d)). -/
theorem mnemonic_ne_of_wellFormed {p : Params} (hwf : TableWellFormed p) {k : List Byte} (hk : k = [] ∨ k = xyz) :
    ∀ e ∈ p.table, e.mnemonic ≠ k := by
  obtain ⟨-, -, hlen, hxyz⟩ := hwf
  intro e he
  rcases hk with rfl | rfl
  · obtain ⟨hpos, -, -⟩ := hlen e he
    exact List.length_pos_iff.mp hpos
  · exact hxyz e he

/-- Settles O22: equal bytes below `key_len` are equal keys; the empty key and "XYZ" are no mnemonics. -/
theorem lookupKeyCorners : Obligations.LookupKeyCorners := by
  unfold Obligations.LookupKeyCorners
  refine ⟨fun s k k' n hk => ⟨lookup s.cfg (k.take n), exec_of_returns .lookup, ?_⟩, fun s hwf hkey => ?_⟩
  · exact hk ▸ exec_of_returns .lookup
  · have hnone := find_eq_none.mpr (mnemonic_ne_of_wellFormed hwf hkey)
    exact lookup_of_find_none hnone ▸ exec_of_returns .lookup

/-! LIST, and its agreement with LOOKUP (R79, R80). -/

/-- LIST presents an entry exactly where the table holds it. -/
theorem listAt_eq_entry_iff {p : Params} {pos : Nat} {e : CommandEntry} :
    listAt p pos = .entry pos e ↔ p.table[pos]? = some e := by
  constructor
  · intro h
    cases hread : tableRead p pos with
    | none => simp [listAt, hread] at h
    | some e' =>
      cases (listAt_of_read hread).symm.trans h
      exact hread
  · exact listAt_of_read

/-- Settles O23: a position is in the table or past its end. -/
theorem listCompletes : Obligations.ListCompletes := by
  unfold Obligations.ListCompletes
  refine fun s => ⟨fun hpos => ?_, fun hpast => ?_⟩
  · exact listAt_of_read (List.getElem?_eq_getElem hpos) ▸ exec_of_returns .list
  · exact listAt_past_end hpast ▸ exec_of_returns .list

/-- Settles O24: both say that the table holds the entry at the position; distinct mnemonics make it the least one. -/
theorem listAndLookupAgree : Obligations.ListAndLookupAgree := by
  unfold Obligations.ListAndLookupAgree
  intro p pos e k ⟨hdistinct, _⟩
  refine ⟨fun hlist => lookup_of_nodup hdistinct (listAt_eq_entry_iff.mp hlist), fun hlookup => ?_⟩
  obtain ⟨he, hkey, -⟩ := lookup_eq_entry_iff_least.mp hlookup
  exact ⟨listAt_eq_entry_iff.mpr he, hkey⟩

/-! ENC_CMD (R81, R82). -/

/-- Byte 0 of an entry's microcontroller frame, by shift: a type code fills its seven bits (R47). -/
theorem mcuByte0_eq_shift_typeCode (d : BitVec 1) (t : BitVec 7) :
    mcuByte0 d t = (d.setWidth 8 <<< 7) ||| t.setWidth 8 := by
  revert d t; decide

/-- `encode_entry` of a class entry, with R67's pseudocode for the bytes. -/
theorem encodeEntry_mcu_eq_pseudocode (p : Params) {e : CommandEntry} {c : McuClass} (v : Value)
    (hmcu : e.target.peripheral = .mcu c) :
    encodeEntry p e v = .frame [((dirBit p e.direction).setWidth 8 <<< 7) ||| (typeCode p c).setWidth 8,
      e.target.index, (v >>> 8).setWidth 8, v.setWidth 8] := by
  rw [encodeEntry_mcu p v hmcu, mcuByte0_eq_shift_typeCode, hiByte_eq_shift, loByte_eq_setWidth]

/-- `encode_entry` of a Dac entry that writes, with R71's pseudocode for the bytes. -/
theorem encodeEntry_dac_write_eq_pseudocode (p : Params) {e : CommandEntry} (v : Value)
    (hdac : e.target.peripheral = .dac) (hidx : e.target.index.toNat ≤ 31) (hdir : e.direction = .write) :
    encodeEntry p e v = .frame [(e.target.index <<< 3) ||| p.dacCtrlWr.setWidth 8,
      (v >>> 8).setWidth 8, v.setWidth 8] := by
  rw [encodeEntry_dac_write p v hdac hdir, encDacWr_eq_pseudocode, if_neg (by omega)]

/-- `encode_entry` of a Dac entry that reads, with R72's pseudocode for the byte. -/
theorem encodeEntry_dac_read_eq_pseudocode (p : Params) {e : CommandEntry} (v : Value)
    (hdac : e.target.peripheral = .dac) (hidx : e.target.index.toNat ≤ 31) (hdir : e.direction = .read) :
    encodeEntry p e v = .frame [(e.target.index <<< 3) ||| p.dacCtrlRd.setWidth 8] := by
  rw [encodeEntry_dac_read p v hdac hdir, encDacRd_eq_pseudocode, if_neg (by omega)]

/-- `rsp_len` by the entry's peripheral (R83). -/
theorem respLen_of_mcu {t : Peripheral} {c : McuClass} (h : t = .mcu c) : respLen (peerOf t) = 4 := by
  subst h; rfl

theorem respLen_of_dac {t : Peripheral} (h : t = .dac) : respLen (peerOf t) = 2 := by
  subst h; rfl

/-- ENC_CMD leaves the command of the entry its key finds, with the frame the entry encodes to. -/
theorem exec_encCmd_of_frame {s : State} {pos : Nat} {e : CommandEntry} {f : Frame}
    (hfind : find s.cfg (keyOf s.inp) = some pos) (he : s.cfg.table[pos]? = some e)
    (hf : encodeEntry s.cfg e s.inp.value = .frame f) :
    exec .encCmd s = .next (ret (.command pos e f (respLen (peerOf e.target.peripheral))) s) :=
  encCmd_of_find hfind he hf ▸ exec_of_returns .encCmd

/-- A Dac entry above 31 is answered by OutOfRange with its index, in either direction (R82). -/
theorem encCmd_dac_outOfRange {p : Params} {k : List Byte} {v : Value} {pos : Nat} {e : CommandEntry}
    (hfind : find p k = some pos) (he : p.table[pos]? = some e) (hdac : e.target.peripheral = .dac)
    (hidx : e.target.index.toNat > 31) : encCmd p k v = .error (.outOfRange e.target.index.toNat) := by
  obtain ⟨o, ho⟩ := encodeEntry_dac_outOfRange (p := p) v hdac hidx
  simp only [encCmd, lookup_of_find hfind he, ho]

/-- Settles O25: the entry's peripheral, direction and index say which form of `encode_entry` answers. -/
theorem encCmdCompletes : Obligations.EncCmdCompletes := by
  unfold Obligations.EncCmdCompletes
  refine fun s => ⟨fun hnone => encCmd_of_find_none hnone ▸ exec_of_returns .encCmd, fun pos e hfind he => ?_⟩
  refine ⟨fun c hmcu => ?_, fun hdac hidx hdir => ?_, fun hdac hidx hdir => ?_, fun hdac hidx => ?_⟩
  · have hexec := exec_encCmd_of_frame hfind he (encodeEntry_mcu_eq_pseudocode s.cfg s.inp.value hmcu)
    rwa [respLen_of_mcu hmcu] at hexec
  · have hexec := exec_encCmd_of_frame hfind he
      (encodeEntry_dac_write_eq_pseudocode s.cfg s.inp.value hdac hidx hdir)
    rwa [respLen_of_dac hdac] at hexec
  · have hexec := exec_encCmd_of_frame hfind he
      (encodeEntry_dac_read_eq_pseudocode s.cfg s.inp.value hdac hidx hdir)
    rwa [respLen_of_dac hdac] at hexec
  · exact encCmd_dac_outOfRange hfind he hdac hidx ▸ exec_of_returns .encCmd

/-- A class's type code is one of the five that R7 constrains. -/
theorem typeCode_mem_typeCodes (p : Params) (c : McuClass) : typeCode p c ∈ typeCodes p := by
  cases c <;> simp [typeCode, perClass, typeCodes]

/-- With R7's constraint, a class's type code is 0 to 4 (R59). -/
theorem typeCode_le_of_wellFormed {p : Params} (hwf : ParamsWellFormed p) (c : McuClass) :
    (typeCode p c).toNat ≤ 4 := by
  obtain ⟨-, -, -, hcodes, -, -⟩ := hwf
  exact Nat.le_of_lt_succ (hcodes _ (typeCode_mem_typeCodes p c))

/-- A Dac entry of a well-formed table has an index the DAC has (R21, R24 (b)). -/
theorem dac_index_le_of_wellFormed {p : Params} (hwf : TableWellFormed p) {e : CommandEntry} (he : e ∈ p.table)
    (hdac : e.target.peripheral = .dac) : e.target.index.toNat ≤ 31 := by
  obtain ⟨-, hvalid, -, -⟩ := hwf
  have haddr := hvalid e he
  simp only [validAddr, hdac] at haddr
  exact of_decide_eq_true haddr

/-- The type field of a frame that `encode_entry` makes of a class entry is the class's code (R81, R47). -/
theorem mcuType_of_encodeEntry {p : Params} {e : CommandEntry} {v : Value} {f : Frame} {c : McuClass}
    (hmcu : e.target.peripheral = .mcu c) (hf : encodeEntry p e v = .frame f) :
    ∃ b0 rest, f = b0 :: rest ∧ mcuType b0 = typeCode p c := by
  cases (encodeEntry_mcu p v hmcu).symm.trans hf
  exact ⟨_, _, rfl, mcuType_byte0 _ _⟩

/-- Settles O26: of what ENC_CMD can answer, a well-formed table leaves out a Dac index above 31, and R7 bounds the type codes. -/
theorem encCmdOnWellFormedTable : Obligations.EncCmdOnWellFormedTable := by
  unfold Obligations.EncCmdOnWellFormedTable
  intro s hwf
  refine ⟨_, exec_of_returns .encCmd, ?_⟩
  rcases encCmd_cases s.cfg (keyOf s.inp) s.inp.value with
    ⟨-, hnotFound⟩ | ⟨pos, e, -, he, -, -, ⟨f, hf, hcmd⟩ | ⟨hdac, hidx, -⟩⟩
  · exact .inl hnotFound
  · refine .inr ⟨pos, e, f, _, hcmd, fun hclass => ?_⟩
    cases hper : e.target.peripheral with
    | dac => simp [hper, isDac] at hclass
    | mcu c =>
      obtain ⟨b0, rest, hbytes, htype⟩ := mcuType_of_encodeEntry hper hf
      exact ⟨b0, rest, hbytes, htype ▸ typeCode_le_of_wellFormed hwf c⟩
  · have ⟨htable, _⟩ := hwf
    have hlegal := dac_index_le_of_wellFormed htable (List.mem_of_getElem? he) hdac
    omega

end Sys2Proof.Machine
end

section
/-! PROOFS. An evaluation with any values: what the host reports itself (R77 (c)), and what the ports carry of the rest (log
entry 33). -/

namespace Sys2Proof.Machine

/-- The operations that read the key, by code (R56). -/
theorem readsKey_iff {op : BitVec 3} : readsKey op = true ↔ op = 5 ∨ op = 7 := by
  simp [readsKey]

/-- Where the caller is ready, an evaluation is the next command: it needs no port (R123). -/
theorem step_eval_command {s : State} {p : InPorts} {cs : List Command} (h : Ready s) (hprog : s.program = .eval p :: cs) :
    step s = commandStep (.eval p) { s with program := cs } :=
  step_command h hprog (by simp [needsPort])

/-- A key that its port cannot present is NotFound by the host, without the block (R77 (c)). -/
theorem commandStep_eval_unpresentable {s : State} {p : InPorts} (hop : p.op = 5 ∨ p.op = 7)
    (hlong : s.cfg.mnemMax < p.keyLen) :
    commandStep (.eval p) s = .next (report (.failure .direct (.notFound (p.key.take p.keyLen))) s) :=
  if_pos ⟨readsKey_iff.mpr hop, hlong⟩

/-- Any other evaluation drives what the ports can carry and executes its operation. -/
theorem commandStep_eval_driven {s : State} {p : InPorts} (h : ¬ ((p.op = 5 ∨ p.op = 7) ∧ s.cfg.mnemMax < p.keyLen)) :
    commandStep (.eval p) s = exec (opInstr p.op) (drive (fitPorts s.cfg p) s) := by
  rw [← readsKey_iff] at h
  exact (if_neg h).trans (execWord_decoded (decode_opCode p.op) _)

theorem fitPorts_keyLen_of_le {c : Params} {p : InPorts} (old : InPorts) (h : p.keyLen ≤ c.mnemMax) :
    (fitPorts c p old).keyLen = p.keyLen := if_pos h

theorem fitPorts_keyLen_of_lt {c : Params} {p : InPorts} (old : InPorts) (h : c.mnemMax < p.keyLen) :
    (fitPorts c p old).keyLen = old.keyLen := if_neg (by omega)

/-- Settles O33: the host's NotFound, or an evaluation on the ports as `fitPorts` has them. -/
theorem misfitIsNotDriven : Obligations.MisfitIsNotDriven := by
  unfold Obligations.MisfitIsNotDriven
  intro s p cs hready hprog
  rw [step_eval_command hready hprog]
  refine ⟨fun hop hlong => commandStep_eval_unpresentable hop hlong, fun hdriven => ?_⟩
  exact ⟨fitPorts s.cfg p s.inp, commandStep_eval_driven hdriven, rfl, rfl, fitPorts_keyLen_of_le s.inp,
    fitPorts_keyLen_of_lt s.inp, keyOf_fitPorts⟩

end Sys2Proof.Machine
end

section
/-! PROOFS. `parse_value_argument` on digit strings (R85), and the document's examples (R86). -/

namespace Sys2Proof.Machine

/-- The character of a decimal digit. -/
def digitChar (d : Fin 10) : Char := Char.ofNat (48 + d.val)

theorem isDigit_digitChar (d : Fin 10) : (digitChar d).isDigit = true := by
  revert d; decide

theorem toNat_digitChar (d : Fin 10) : (digitChar d).toNat - '0'.toNat = d.val := by
  revert d; decide

/-- The number that digits denote, base 10, is the model's `decimal` of their characters. -/
theorem decimal_digitChars (ds : List (Fin 10)) :
    decimal (ds.map digitChar) = ds.foldl (fun n d => 10 * n + d.val) 0 := by
  simp only [decimal, List.foldl_map, toNat_digitChar]

theorem isDigits_digitChars {ds : List (Fin 10)} (h : ds ≠ []) : isDigits (ds.map digitChar) = true := by
  simp [isDigits, h, isDigit_digitChar]

theorem isEmpty_of_isDigits {t : List Char} (h : isDigits t = true) : t.isEmpty = false := by
  cases t with
  | nil => cases h
  | cons c t => rfl

/-- A sequence of digits is its number, or a range error above 65535: never wrapped (R85). -/
theorem parseValue_of_isDigits {t : List Char} (h : isDigits t = true) :
    parseValue t = if decimal t ≤ 65535 then .ok (BitVec.ofNat 16 (decimal t)) else .error .outOfRange := by
  by_cases hfits : decimal t ≤ 65535
  · simp [parseValue, isEmpty_of_isDigits h, h, Config.valueMax, hfits, Nat.not_lt.mpr hfits]
  · simp [parseValue, isEmpty_of_isDigits h, h, Config.valueMax, hfits, Nat.not_le.mp hfits]

/-- A minus sign is no digit. -/
theorem isDigits_minus (t : List Char) : isDigits ('-' :: t) = false := by
  simp [isDigits]

/-- Digits after a minus sign are a range error (R85). -/
theorem parseValue_minus_of_isDigits {t : List Char} (h : isDigits t = true) :
    parseValue ('-' :: t) = .error .outOfRange := by
  simp [parseValue, isDigits_minus, h]

/-- Settles O53: the characters of decimal digits are digits, and `decimal` of them is their number. -/
theorem parseValueOfDigits : Obligations.ParseValueOfDigits := by
  unfold Obligations.ParseValueOfDigits
  intro ds hne
  have hdigits := isDigits_digitChars hne
  refine ⟨?_, parseValue_minus_of_isDigits hdigits⟩
  rw [← decimal_digitChars]
  exact parseValue_of_isDigits hdigits

/-- Settles O52: the five tokens, evaluated. -/
theorem parseValueExamples : Obligations.ParseValueExamples := by
  unfold Obligations.ParseValueExamples
  decide

end Sys2Proof.Machine
end

section
/-! PROOFS. The transitions of a transaction in flight (R96): an equation for each answer from outside, and with them
everything one transition can do. -/

namespace Sys2Proof.Machine

/-! What a transaction's end leads to (R94, R66, R98). -/

/-- The transaction is over in this state, nothing is in flight, and its outcome is reported. -/
def closeTxn (x : TxnState) (r : Report) (s : State) : State := report r (setCurrent none (setTxn x s))

/-- A decoded transaction is closed; outside the sweep only the one-shot mode's session ends with it, in the sweep the entry
does. -/
theorem finishTxn_cases (t : Txn) (v : Value) (s : State) :
    ((t.who = .direct ∨ t.who = .line) ∧ finishTxn t v s = closeTxn .decoded (.value t.who v) s) ∨
    (t.who = .oneShot ∧ finishTxn t v s = endSession .success (closeTxn .decoded (.value t.who v) s)) ∨
    (∃ pos e, t.who = .sweep pos e ∧ finishTxn t v s = sweepAfterEntry (closeTxn .decoded (.value t.who v) s)) := by
  unfold finishTxn closeTxn
  cases t.who <;> simp [afterTxn]

/-- A failed transaction is closed; outside the sweep the session ends with it, in the sweep the entry does. -/
theorem failTxn_cases (t : Txn) (stage : BusStage) (s : State) :
    ((∀ pos e, t.who ≠ .sweep pos e) ∧
      failTxn t stage s = endSession .failure (closeTxn .failed (.failure t.who (.busError stage)) s)) ∨
    (∃ pos e, t.who = .sweep pos e ∧
      failTxn t stage s = sweepAfterEntry (closeTxn .failed (.failure t.who (.busError stage)) s)) := by
  unfold failTxn closeTxn
  cases t.who <;> simp [afterTxn]

theorem failTxn_outside {t : Txn} (h : ∀ pos e, t.who ≠ .sweep pos e) (stage : BusStage) (c : BusCall) (es : List Event)
    (s : State) : failTxn t stage (logCall c (setEvents es s)) = failedOutside t stage c es s := by
  rcases failTxn_cases t stage (logCall c (setEvents es s)) with ⟨-, heq⟩ | ⟨pos, e, hwho, -⟩
  · exact heq
  · exact absurd hwho (h pos e)

theorem failTxn_inSweep {t : Txn} {pos : Nat} {e : CommandEntry} (h : t.who = .sweep pos e) (stage : BusStage)
    (c : BusCall) (es : List Event) (s : State) :
    failTxn t stage (logCall c (setEvents es s)) = failedInSweep t stage c es s := by
  rcases failTxn_cases t stage (logCall c (setEvents es s)) with ⟨hout, -⟩ | ⟨-, -, -, heq⟩
  · exact absurd h (hout pos e)
  · rw [heq, sweepAfterEntry_eq, failedInSweep, List.append_cons]
    rfl

/-- What is selected plays no part in a transaction's end. -/
theorem failTxn_setPeer (t : Txn) (stage : BusStage) (a : Int) (s : State) :
    failTxn t stage (setPeer a s) = setPeer a (failTxn t stage s) := by
  unfold failTxn
  cases t.who with
  | sweep pos e => simp only [afterTxn, sweepAfterEntry_eq]; rfl
  | _ => rfl

/-! The read's response, executed (R92, R68, R73). -/

/-- A response's bytes on the `rx` ports of its peer's decoder, by their number (R48, R51). -/
def driveResponse (bytes : Frame) (p : InPorts) : InPorts :=
  match bytes with
  | [b0, b1, b2, b3] => driveRx4 b0 b1 b2 b3 p
  | [b0, b1] => driveRx2 b0 b1 p
  | _ => p

/-- The value a response carries: its last two bytes, high byte first. -/
def responseValue (bytes : Frame) : Value :=
  match bytes with
  | [_, _, b2, b3] => joinBytes b2 b3
  | [b0, b1] => joinBytes b0 b1
  | _ => 0

/-- The value a peer's decoder gives for what stands on the ports (R83). -/
def decodedValue : Peer → InPorts → Value
  | .mcu, p => joinBytes p.rx2 p.rx3
  | .dac, p => joinBytes p.rx0 p.rx1

/-- A response has its peer's number of bytes: four or two. -/
theorem response_cases {peer : Peer} {bs : Frame} (h : bs.length = respLen peer) :
    (peer = .mcu ∧ ∃ b0 b1 b2 b3, bs = [b0, b1, b2, b3]) ∨ (peer = .dac ∧ ∃ b0 b1, bs = [b0, b1]) := by
  cases peer with
  | mcu => exact .inl ⟨rfl, List.length_eq_four.mp h⟩
  | dac => exact .inr ⟨rfl, List.length_eq_two.mp h⟩

theorem driveResponse_key (bs : Frame) (p : InPorts) :
    (driveResponse bs p).key = p.key ∧ (driveResponse bs p).keyLen = p.keyLen := by
  unfold driveResponse
  split <;> exact ⟨rfl, rfl⟩

theorem decodedValue_driveResponse {peer : Peer} {bs : Frame} (h : bs.length = respLen peer) (p : InPorts) :
    decodedValue peer (driveResponse bs p) = responseValue bs := by
  rcases response_cases h with ⟨rfl, b0, b1, b2, b3, rfl⟩ | ⟨rfl, b0, b1, rfl⟩ <;> rfl

/-- A whole response is a word of its peer's interface: its bytes stand on the ports, decoded, and are received. -/
theorem execWord_response {peer : Peer} {bs : Frame} (h : bs.length = respLen peer) (s : State) :
    execWord (responseChannel peer) bs s =
      .next (receiveFrame peer bs (ret (.value (responseValue bs)) (drive (driveResponse bs) s))) := by
  rcases response_cases h with ⟨rfl, b0, b1, b2, b3, rfl⟩ | ⟨rfl, b0, b1, rfl⟩
  · have hexec := exec_mcuRsp b0 b1 (joinBytes b2 b3) s
    rw [hiByte_joinBytes, loByte_joinBytes] at hexec
    exact hexec
  · have hexec := exec_dacRsp (joinBytes b0 b1) s
    rw [hiByte_joinBytes, loByte_joinBytes] at hexec
    exact hexec

/-- Step 6 drives the decoder's code, returns the value it gives and finishes the transaction. -/
theorem decodeStep_eq_finishTxn (t : Txn) (s : State) :
    ∃ c, decodeStep t s = finishTxn t (decodedValue t.peer s.inp)
      (ret (.value (decodedValue t.peer s.inp)) (drive (driveOp c) s)) := by
  obtain ⟨c, v, heq, hmcu, hdac⟩ := decodeStep_eq t s
  refine ⟨c, ?_⟩
  cases hpeer : t.peer with
  | mcu => rw [heq, hmcu hpeer]; rfl
  | dac => rw [heq, hdac hpeer]; rfl

/-! The steps of R96, by what has happened outside. -/

/-- `select_peer` has returned: the transaction's peer is selected (R88). -/
def selectDone (t : Txn) (es : List Event) (s : State) : State :=
  setTxn .peerSelected (setPeer (peerAddr s.cfg t.peer)
    (logCall (.selectPeer (peerAddr s.cfg t.peer) true) (setEvents es s)))

/-- `write` has taken the whole frame (R90). -/
def writeDone (t : Txn) (es : List Event) (s : State) : State :=
  setTxn .written
    (logCall (.write s.selectedPeer t.frame (some t.frame.length)) (setEvents es s))

/-- `read` has returned the whole response: its bytes stand on the ports, decoded (R92, log entry 3). -/
def readDone (t : Txn) (bs : List Byte) (es : List Event) (s : State) : State :=
  setTxn .readComplete (logCall (.read s.selectedPeer (respLen t.peer) (some bs))
    (ret (.value (responseValue bs)) (drive (driveResponse bs) (setEvents es s))))

theorem noRequest_cons {s : State} {e : Event} {es : List Event} (hev : s.events = e :: es)
    (he : isOutsideRequest e = false) : ∀ e' es', s.events = e' :: es' → isOutsideRequest e' = false := by
  rw [hev]
  rintro _ _ ⟨⟩
  exact he

/-- With a transaction in flight and no request from outside, a step is a transition of the transaction. -/
theorem step_inflight {s : State} {t : Txn} (hrun : s.session = .running) (hcur : s.current = some t)
    (hreq : ∀ e es, s.events = e :: es → isOutsideRequest e = false) : step s = engineStep t s :=
  (step_eq_callerStep hrun hreq).trans (callerStep_inflight hcur)

theorem engineStep_idle {s : State} {t : Txn} (h : s.txnState = .idle) : engineStep t s = selectStep t s := by
  simp only [engineStep, h]

theorem engineStep_peerSelected {s : State} {t : Txn} (h : s.txnState = .peerSelected) :
    engineStep t s = writeStep t s := by
  simp only [engineStep, h]

theorem engineStep_written {s : State} {t : Txn} (h : s.txnState = .written) : engineStep t s = .next (settleStep s) := by
  simp only [engineStep, h]

theorem engineStep_readComplete {s : State} {t : Txn} (h : s.txnState = .readComplete) :
    engineStep t s = .next (decodeStep t s) := by
  simp only [engineStep, h]

/-- A write that is short or failed wrote fewer bytes than the frame has, or none it can tell of (R90). -/
def ShortWrite (t : Txn) (w : Option Nat) : Prop := ∀ n, w = some n → n < t.frame.length

/-- A read that is short or failed returned fewer bytes than were asked for, or none (R92). -/
def ShortRead (t : Txn) (got : Option (List Byte)) : Prop := ∀ bs, got = some bs → bs.length < respLen t.peer

section
variable {s : State} {t : Txn} {es : List Event}

theorem selectStep_ok (h : s.events = .selected true :: es) : selectStep t s = .next (selectDone t es s) := by
  simp only [selectStep, h]
  rfl

theorem selectStep_failed (h : s.events = .selected false :: es) :
    selectStep t s = .next (failTxn t .select (setPeer (Config.freePeer (s.busLog.length + 1))
      (logCall (.selectPeer (peerAddr s.cfg t.peer) false) (setEvents es s)))) := by
  simp only [selectStep, h]

theorem writeStep_full (h : s.events = .written (some t.frame.length) :: es) :
    writeStep t s = .next (writeDone t es s) := by
  simp [writeStep, h, writeDone]

theorem writeStep_short {w : Option Nat} (h : s.events = .written w :: es) (hw : ShortWrite t w) :
    writeStep t s = .next (failTxn t .write (logCall (.write s.selectedPeer t.frame w) (setEvents es s))) := by
  cases w with
  | none => simp only [writeStep, h]
  | some n =>
    have hn := hw n rfl
    simp only [writeStep, h, if_neg (show ¬ n > t.frame.length by omega), if_neg (show ¬ n = t.frame.length by omega)]

theorem writeStep_over {n : Nat} (h : s.events = .written (some n) :: es) (hn : n > t.frame.length) :
    writeStep t s = .refused .overReport := by
  simp only [writeStep, h, if_pos hn]

theorem readStep_short {got : Option (List Byte)} (h : s.events = .received got :: es) (hgot : ShortRead t got) :
    readStep t s =
      .next (failTxn t .read (logCall (.read s.selectedPeer (respLen t.peer) got) (setEvents es s))) := by
  cases got with
  | none => simp only [readStep, h]; rfl
  | some bs =>
    have hlen := hgot bs rfl
    simp only [readStep, h, if_neg (show ¬ bs.length > respLen t.peer by omega),
      if_neg (show ¬ bs.length = respLen t.peer by omega)]
    rfl

theorem readStep_over {bs : List Byte} (h : s.events = .received (some bs) :: es) (hlen : bs.length > respLen t.peer) :
    readStep t s = .refused .overReport := by
  simp only [readStep, h, if_pos hlen]

/-- The awaited response in full: it stands on the ports, decoded, and the read is on record and complete. -/
theorem readStep_complete {bs : List Byte} (hrun : s.session = .running) (hcur : s.current = some t)
    (hset : s.txnState = .settled) (hev : s.events = .received (some bs) :: es) (hlen : bs.length = respLen t.peer) :
    readStep t s = .next (readDone t bs es s) := by
  rw [readStep_full hev hlen, execWord_response hlen, readDone, ← hlen]
  exact congrArg Host.Outcome.next (receiveFrame_awaited ⟨hrun, ⟨t, hcur, rfl⟩, hset⟩)

end

/-- Everything one transition of a transaction in flight can do (R96). -/
inductive EngineMove (t : Txn) (s : State) : State → Prop where
  | waits : EngineMove t s s
  | selected {es : List Event} (hstate : s.txnState = .idle) : EngineMove t s (selectDone t es s)
  | selectFailed {a : Int} {es : List Event} (hstate : s.txnState = .idle) :
      EngineMove t s (failTxn t .select (setPeer a
        (logCall (.selectPeer (peerAddr s.cfg t.peer) false) (setEvents es s))))
  | written {es : List Event} (hstate : s.txnState = .peerSelected) : EngineMove t s (writeDone t es s)
  | writeFailed {w : Option Nat} {es : List Event} (hstate : s.txnState = .peerSelected) (hw : ShortWrite t w) :
      EngineMove t s (failTxn t .write (logCall (.write s.selectedPeer t.frame w) (setEvents es s)))
  | settled (hstate : s.txnState = .written) : EngineMove t s (settleStep s)
  | readComplete {bs : List Byte} {es : List Event} (hstate : s.txnState = .settled) (hlen : bs.length = respLen t.peer) :
      EngineMove t s (readDone t bs es s)
  | readFailed {got : Option (List Byte)} {es : List Event} (hstate : s.txnState = .settled) (hgot : ShortRead t got) :
      EngineMove t s (failTxn t .read (logCall (.read s.selectedPeer (respLen t.peer) got) (setEvents es s)))
  | decoded {c : BitVec 3} {v : Value} (hstate : s.txnState = .readComplete) :
      EngineMove t s (finishTxn t v (ret (.value v) (drive (driveOp c) s)))
  | cleared (hstate : isTerminal s.txnState = true) : EngineMove t s (setCurrent none s)

theorem selectStep_next {t : Txn} {s u : State} (hstate : s.txnState = .idle) (h : selectStep t s = .next u) :
    EngineMove t s u := by
  unfold selectStep at h
  split at h <;> cases h
  · exact .waits
  · exact .selected hstate
  · exact .selectFailed hstate

theorem writeStep_next {t : Txn} {s u : State} (hstate : s.txnState = .peerSelected) (h : writeStep t s = .next u) :
    EngineMove t s u := by
  unfold writeStep at h
  split at h
  case h_1 =>
    cases h
    exact .waits
  case h_2 =>
    cases h
    exact .writeFailed hstate nofun
  case h_3 w es hev =>
    split_ifs at h with hover hfull
    · cases h
      subst hfull
      exact .written hstate
    · cases h
      refine .writeFailed hstate ?_
      rintro n ⟨⟩
      omega
  case h_4 => cases h

theorem readStep_next {t : Txn} {s u : State} (hrun : s.session = .running) (hcur : s.current = some t)
    (hstate : s.txnState = .settled) (h : readStep t s = .next u) : EngineMove t s u := by
  cases hev : s.events with
  | nil =>
    simp only [readStep, hev] at h
    cases h
    exact .waits
  | cons e es =>
    cases e with
    | received got =>
      cases got with
      | none =>
        cases (readStep_short hev nofun).symm.trans h
        exact .readFailed hstate nofun
      | some bs =>
        rcases Nat.lt_trichotomy bs.length (respLen t.peer) with hlen | hlen | hlen
        · have hshort : ShortRead t (some bs) := by
            rintro _ ⟨⟩
            exact hlen
          cases (readStep_short hev hshort).symm.trans h
          exact .readFailed hstate hshort
        · cases (readStep_complete hrun hcur hstate hev hlen).symm.trans h
          exact .readComplete hstate hlen
        · cases (readStep_over hev hlen).symm.trans h
    | _ => simp [readStep, hev] at h

theorem engineStep_next {t : Txn} {s u : State} (hrun : s.session = .running) (hcur : s.current = some t)
    (h : engineStep t s = .next u) : EngineMove t s u := by
  cases hstate : s.txnState with
  | idle => exact selectStep_next hstate (engineStep_idle hstate ▸ h)
  | peerSelected => exact writeStep_next hstate (engineStep_peerSelected hstate ▸ h)
  | written =>
    cases (engineStep_written hstate).symm.trans h
    exact .settled hstate
  | settled => exact readStep_next hrun hcur hstate (engineStep_settled hstate ▸ h)
  | readComplete =>
    cases (engineStep_readComplete hstate).symm.trans h
    obtain ⟨c, heq⟩ := decodeStep_eq_finishTxn t s
    rw [heq]
    exact .decoded hstate
  | decoded =>
    simp only [engineStep, hstate] at h
    cases h
    exact .cleared (by rw [hstate]; rfl)
  | failed =>
    simp only [engineStep, hstate] at h
    cases h
    exact .cleared (by rw [hstate]; rfl)

end Sys2Proof.Machine
end

section
/-! PROOFS. The bus calls of a transaction in flight (R88 to R93), one by one and as a whole. -/

namespace Sys2Proof.Machine

/-- The session runs, with this transaction in flight in this state. -/
structure InFlight (t : Txn) (x : TxnState) (s : State) : Prop where
  running : s.session = .running
  current : s.current = some t
  state   : s.txnState = x

namespace InFlight

variable {t : Txn} {x : TxnState} {s : State} {es : List Event}

theorem after_select (h : InFlight t x s) (es : List Event) : InFlight t .peerSelected (selectDone t es s) :=
  ⟨h.running, h.current, rfl⟩

theorem after_write (h : InFlight t x s) (es : List Event) : InFlight t .written (writeDone t es s) :=
  ⟨h.running, h.current, rfl⟩

theorem after_settle (h : InFlight t x s) : InFlight t .settled (settleStep s) := ⟨h.running, h.current, rfl⟩

theorem after_read (h : InFlight t x s) (bs : List Byte) (es : List Event) :
    InFlight t .readComplete (readDone t bs es s) :=
  ⟨h.running, h.current, rfl⟩

theorem step_selected (h : InFlight t .idle s) (hev : s.events = .selected true :: es) :
    step s = .next (selectDone t es s) := by
  rw [step_inflight h.running h.current (noRequest_cons hev rfl), engineStep_idle h.state, selectStep_ok hev]

theorem step_written (h : InFlight t .peerSelected s) (hev : s.events = .written (some t.frame.length) :: es) :
    step s = .next (writeDone t es s) := by
  rw [step_inflight h.running h.current (noRequest_cons hev rfl), engineStep_peerSelected h.state, writeStep_full hev]

theorem step_settles (h : InFlight t .written s) (hreq : ∀ e es, s.events = e :: es → isOutsideRequest e = false) :
    step s = .next (settleStep s) := by
  rw [step_inflight h.running h.current hreq, engineStep_written h.state]

theorem step_read (h : InFlight t .settled s) {bs : List Byte} (hev : s.events = .received (some bs) :: es)
    (hlen : bs.length = respLen t.peer) : step s = .next (readDone t bs es s) := by
  rw [step_inflight h.running h.current (noRequest_cons hev rfl), engineStep_settled h.state,
    readStep_complete h.running h.current h.state hev hlen]

/-- The step at ReadComplete finishes the transaction with what its peer's decoder gives for the bytes on the ports. -/
theorem step_decodes (h : InFlight t .readComplete s)
    (hreq : ∀ e es, s.events = e :: es → isOutsideRequest e = false) :
    ∃ c, step s = .next (finishTxn t (decodedValue t.peer s.inp)
      (ret (.value (decodedValue t.peer s.inp)) (drive (driveOp c) s))) := by
  obtain ⟨c, heq⟩ := decodeStep_eq_finishTxn t s
  exact ⟨c, by rw [step_inflight h.running h.current hreq, engineStep_readComplete h.state, heq]⟩

end InFlight

/-- Settles O38: nothing from outside is looked at. -/
theorem settleDelayIsUnconditional : Obligations.SettleDelayIsUnconditional := by
  unfold Obligations.SettleDelayIsUnconditional
  intro s t hrun hcur hstate hreq
  exact InFlight.step_settles ⟨hrun, hcur, hstate⟩ hreq

/-- Settles O41: each of the three calls looks at the oldest event, and there is none. -/
theorem unansweredCallWaits : Obligations.UnansweredCallWaits := by
  unfold Obligations.UnansweredCallWaits
  intro s t hrun hcur hev hstate
  have hreq : ∀ e es, s.events = e :: es → isOutsideRequest e = false := by simp [hev]
  rw [step_inflight hrun hcur hreq]
  rcases hstate with hstate | hstate | hstate
  · rw [engineStep_idle hstate, selectStep, hev]
  · rw [engineStep_peerSelected hstate, writeStep, hev]
  · rw [engineStep_settled hstate, readStep, hev]

/-- Settles O36: both answers of `selectStep`, the failed one by where the transaction stands. -/
theorem selectCall : Obligations.SelectCall := by
  unfold Obligations.SelectCall
  intro s t es hrun hcur hstate _
  refine ⟨InFlight.step_selected ⟨hrun, hcur, hstate⟩, fun hev => ?_⟩
  rw [step_inflight hrun hcur (noRequest_cons hev rfl), engineStep_idle hstate, selectStep_failed hev, failTxn_setPeer]
  refine ⟨_, rfl, fun hout => ?_, fun pos e hwho => ?_⟩
  · rw [failTxn_outside hout]
    rfl
  · rw [failTxn_inSweep hwho]
    rfl

/-- Settles O37: the three answers of `writeStep`. -/
theorem writeCall : Obligations.WriteCall := by
  unfold Obligations.WriteCall
  intro s t es hrun hcur hstate
  have hstep {w : Option Nat} (hev : s.events = .written w :: es) : step s = writeStep t s :=
    (step_inflight hrun hcur (noRequest_cons hev rfl)).trans (engineStep_peerSelected hstate)
  refine ⟨InFlight.step_written ⟨hrun, hcur, hstate⟩,
    fun w hev hw => ⟨fun hout => ?_, fun pos e hwho => ?_⟩, fun n hev hn => ?_⟩ <;> rw [hstep hev]
  · rw [writeStep_short hev hw, failTxn_outside hout]
  · rw [writeStep_short hev hw, failTxn_inSweep hwho]
  · exact writeStep_over hev hn

/-- Settles O39: the three answers of `readStep`. -/
theorem readCall : Obligations.ReadCall := by
  unfold Obligations.ReadCall
  intro s t es hrun hcur hstate
  have hstep {got : Option (List Byte)} (hev : s.events = .received got :: es) : step s = readStep t s :=
    (step_inflight hrun hcur (noRequest_cons hev rfl)).trans (engineStep_settled hstate)
  refine ⟨fun bs hev hlen => ⟨_, InFlight.step_read ⟨hrun, hcur, hstate⟩ hev hlen, rfl, hcur, rfl, rfl⟩,
    fun got hev hgot => ⟨fun hout => ?_, fun pos e hwho => ?_⟩, fun bs hev hlen => ?_⟩ <;> rw [hstep hev]
  · rw [readStep_short hev hgot, failTxn_outside hout]
  · rw [readStep_short hev hgot, failTxn_inSweep hwho]
  · exact readStep_over hev hlen

/-! Decoding (R93). -/

/-- What is recorded after a transaction by its caller: in the sweep the wait after the entry, else nothing (R101, D25). -/
def waitAfter (p : Params) : Caller → List BusCall
  | .sweep _ _ => [.delay Config.sweepPeriod p.table.length]
  | _ => []

theorem waitAfter_sweep {who : Caller} {pos : Nat} {e : CommandEntry} (h : who = .sweep pos e) (p : Params) :
    waitAfter p who = [.delay 1000 p.table.length] := by
  rw [h]
  rfl

theorem waitAfter_outside {who : Caller} (h : ∀ pos e, who ≠ .sweep pos e) (p : Params) : waitAfter p who = [] := by
  cases who with
  | sweep pos e => exact absurd rfl (h pos e)
  | _ => rfl

/-- What stands when a transaction has been decoded: the value reported, and by caller how the record, the session and the
sweep go on. -/
structure Finished (t : Txn) (v : Value) (s u : State) : Prop where
  decoded : u.txnState = .decoded
  noTxn   : u.current = none
  result  : u.result = s.result
  reports : u.reports = s.reports ++ [.value t.who v]
  busLog  : u.busLog = s.busLog ++ waitAfter s.cfg t.who
  runsOn  : t.who = .direct ∨ t.who = .line → u.session = s.session ∧ u.sweep = s.sweep
  oneShot : t.who = .oneShot → u.session = .ended .success
  sweeps  : ∀ pos e, t.who = .sweep pos e → u.session = s.session ∧ u.sweep = sweepNext s

theorem finishTxn_finished (t : Txn) (v : Value) (s : State) : Finished t v s (finishTxn t v s) := by
  rcases finishTxn_cases t v s with ⟨hwho | hwho, heq⟩ | ⟨hwho, heq⟩ | ⟨pos, e, hwho, heq⟩ <;> rw [heq]
  case inr.inr =>
    rw [sweepAfterEntry_eq]
    exact ⟨rfl, rfl, rfl, rfl, by rw [hwho]; rfl, by simp [hwho], by simp [hwho], fun _ _ _ => ⟨rfl, rfl⟩⟩
  all_goals
    exact ⟨rfl, rfl, rfl, rfl, by simp [hwho, waitAfter, closeTxn], by simp [hwho, closeTxn], by simp [hwho], by simp [hwho]⟩

/-- Settles O40: `Finished` by the caller, the value by the peer. -/
theorem decodeReturnsValue : Obligations.DecodeReturnsValue := by
  unfold Obligations.DecodeReturnsValue
  intro s t hrun hcur hstate hreq
  obtain ⟨c, hstep⟩ := InFlight.step_decodes ⟨hrun, hcur, hstate⟩ hreq
  have hfin := finishTxn_finished t (decodedValue t.peer s.inp)
    (ret (.value (decodedValue t.peer s.inp)) (drive (driveOp c) s))
  have hlog (hout : ∀ pos e, t.who ≠ .sweep pos e) := waitAfter_outside hout s.cfg ▸ hfin.busLog
  refine ⟨_, _, hstep, hfin.decoded, hfin.noTxn, hfin.result, hfin.reports, fun hpeer => ?_, fun hpeer => ?_,
    fun hwho => ?_, fun hwho => ?_, fun pos e hwho => ?_⟩
  · rw [hpeer]
    exact toNat_joinBytes _ _
  · rw [hpeer]
    exact toNat_joinBytes _ _
  · obtain ⟨hsession, hsweep⟩ := hfin.runsOn hwho
    have hout : ∀ pos e, t.who ≠ .sweep pos e := by rcases hwho with hwho | hwho <;> simp [hwho]
    exact ⟨hsession.trans hrun, (hlog hout).trans (List.append_nil _), hsweep⟩
  · exact ⟨hfin.oneShot hwho, (hlog (by simp [hwho])).trans (List.append_nil _)⟩
  · obtain ⟨hsession, hsweep⟩ := hfin.sweeps pos e hwho
    exact ⟨hsession.trans hrun, hsweep, waitAfter_sweep hwho s.cfg ▸ hfin.busLog⟩

/-! The whole transaction (R93). -/

/-- The calls of a transaction answered in full, in their order. -/
def wholeCalls (p : Params) (t : Txn) (bs : List Byte) : List BusCall :=
  [.selectPeer (peerAddr p t.peer) true,
   .write (peerAddr p t.peer) t.frame (some t.frame.length),
   .delay 25 1,
   .read (peerAddr p t.peer) (respLen t.peer) (some bs)]

/-- What stands when all the calls have been answered in full: ReadComplete, the calls on record, and on the ports a response
that decodes to its value. -/
structure Answered (t : Txn) (bs : List Byte) (es : List Event) (s u : State) : Prop extends
    InFlight t .readComplete u where
  events  : u.events = es
  cfg     : u.cfg = s.cfg
  reports : u.reports = s.reports
  value   : decodedValue t.peer u.inp = responseValue bs
  busLog  : u.busLog = s.busLog ++ wholeCalls s.cfg t bs

/-- Four steps make the four calls. -/
theorem InFlight.run_calls {t : Txn} {s : State} {bs : List Byte} {ws rs es : List Event} (h : InFlight t .idle s)
    (hselected : s.events = .selected true :: ws) (hwritten : ws = .written (some t.frame.length) :: rs)
    (hreceived : rs = .received (some bs) :: es) (hlen : bs.length = respLen t.peer) (k : Nat) :
    ∃ u, core.run (k + 4) s = core.run k u ∧ Answered t bs es s u := by
  have h1 := h.after_select ws
  have h2 := h1.after_write rs
  have h3 := h2.after_settle
  refine ⟨readDone t bs es (settleStep (writeDone t rs (selectDone t ws s))), ?_, h3.after_read bs es,
    rfl, ?_, ?_, ?_, ?_⟩
  · rw [run_of_step (h.step_selected hselected), run_of_step (h1.step_written hwritten),
      run_of_step (h2.step_settles (noRequest_cons hreceived rfl)), run_of_step (h3.step_read hreceived hlen)]
  all_goals
    simp [readDone, settleStep, writeDone, selectDone, wholeCalls, Config.tSettle, decodedValue_driveResponse hlen]

/-- Settles O42: the four calls, and then the step that decodes. -/
theorem transactionSucceeds : Obligations.TransactionSucceeds := by
  unfold Obligations.TransactionSucceeds
  intro s t bs es hrun hcur hstate _ hev hreq hlen
  obtain ⟨x, hcalls, hx⟩ := InFlight.run_calls ⟨hrun, hcur, hstate⟩ hev rfl rfl hlen 1
  obtain ⟨c, hstep⟩ := hx.step_decodes (hx.events.symm ▸ hreq)
  rw [hx.value] at hstep
  have hfin := finishTxn_finished t (responseValue bs) (ret (.value (responseValue bs)) (drive (driveOp c) x))
  refine ⟨_, responseValue bs, waitAfter s.cfg t.who, hcalls.trans (run_of_step hstep 0), hfin.decoded, hfin.noTxn,
    hfin.reports.trans (congrArg (· ++ _) hx.reports), ?_, fun hout => waitAfter_outside hout s.cfg,
    fun pos e hwho => waitAfter_sweep hwho s.cfg, ?_, ?_⟩
  · calc _ = x.busLog ++ waitAfter x.cfg t.who := hfin.busLog
      _ = s.busLog ++ wholeCalls s.cfg t bs ++ waitAfter s.cfg t.who := by rw [hx.busLog, hx.cfg]
  · rintro b0 b1 b2 b3 rfl -
    rfl
  · rintro b0 b1 rfl -
    rfl

end Sys2Proof.Machine
end

section
/-! PROOFS. How a transaction leaves flight (R94 to R96, R99, R100). -/

namespace Sys2Proof.Machine

/-- What stands when a transaction has failed: outside the sweep its session is over with failure, in the sweep the sweep is
where it goes next. -/
structure Abandoned (t : Txn) (s u : State) : Prop where
  failed  : u.txnState = .failed
  noTxn   : u.current = none
  outside : (∀ pos e, t.who ≠ .sweep pos e) → u.session = .ended .failure
  sweeps  : ∀ pos e, t.who = .sweep pos e → u.session = s.session ∧ u.sweep = sweepNext s

theorem failTxn_abandoned (t : Txn) (stage : BusStage) (s : State) : Abandoned t s (failTxn t stage s) := by
  rcases failTxn_cases t stage s with ⟨hout, heq⟩ | ⟨pos, e, hwho, heq⟩ <;> rw [heq]
  · exact ⟨rfl, rfl, fun _ => rfl, fun pos e hwho => absurd hwho (hout pos e)⟩
  · rw [sweepAfterEntry_eq]
    exact ⟨rfl, rfl, fun hout => absurd hwho (hout pos e), fun _ _ _ => ⟨rfl, rfl⟩⟩

/-- A live transaction's move leaves it in flight and live, or decoded, or failed. -/
theorem EngineMove.ends {t : Txn} {s u : State} (h : EngineMove t s u) (hcur : s.current = some t)
    (hlive : isTerminal s.txnState = false) :
    (u.current = some t ∧ isTerminal u.txnState = false) ∨ (u.current = none ∧ u.txnState = .decoded) ∨
      Abandoned t s u := by
  cases h with
  | waits => exact .inl ⟨hcur, hlive⟩
  | selected | written | settled | readComplete => exact .inl ⟨hcur, rfl⟩
  | selectFailed | writeFailed | readFailed =>
    obtain ⟨hfailed, hnone, hout, hsweeps⟩ := failTxn_abandoned t _ _
    exact .inr (.inr ⟨hfailed, hnone, hout, hsweeps⟩)
  | @decoded c v =>
    have hfin := finishTxn_finished t v (ret (.value v) (drive (driveOp c) s))
    exact .inr (.inl ⟨hfin.noTxn, hfin.decoded⟩)
  | cleared hterminal => simp [hlive] at hterminal

/-- What a step of a running session with a live transaction in flight can do. -/
theorem step_inflight_next {s u : State} {t : Txn} (hrun : s.session = .running) (hcur : s.current = some t)
    (h : step s = .next u) :
    (∃ es, s.events = .stopRequest :: es ∧ u = { s with events := es, stop := true }) ∨
    (∃ es, s.events = .terminate :: es ∧ u = terminateSession (setEvents es s)) ∨
    ((∀ e es, s.events = e :: es → isOutsideRequest e = false) ∧ EngineMove t s u) := by
  rcases step_next h with ⟨hover, -⟩ | ⟨-, hstop | hterm | ⟨hreq, -⟩⟩
  · exact absurd hrun hover
  · exact .inl hstop
  · exact .inr (.inl hterm)
  · exact .inr (.inr ⟨hreq, engineStep_next hrun hcur (step_inflight hrun hcur hreq ▸ h)⟩)

/-- Settles O43: a request from outside leaves the transaction as it is, and its own moves end as `EngineMove.ends` says. -/
theorem transactionEndsOnlyTerminal : Obligations.TransactionEndsOnlyTerminal := by
  unfold Obligations.TransactionEndsOnlyTerminal
  intro s u t hrun hcur hlive hstep
  rcases step_inflight_next hrun hcur hstep with ⟨es, hev, rfl⟩ | ⟨es, hev, rfl⟩ | ⟨hreq, hmove⟩
  · exact ⟨.inl hcur, fun _ _ => ⟨hcur, rfl⟩, fun es' hev' => by simp [hev] at hev'⟩
  · exact ⟨.inl hcur, fun es' hev' => by simp [hev] at hev', fun _ _ => ⟨rfl, hcur, rfl, rfl⟩⟩
  · refine ⟨?_, fun es hev => by simpa [isOutsideRequest] using hreq _ es hev,
      fun es hev => by simpa [isOutsideRequest] using hreq _ es hev⟩
    rcases hmove.ends hcur hlive with ⟨hstill, -⟩ | ⟨hnone, hdecoded⟩ | habandoned
    · exact .inl hstill
    · exact .inr ⟨hnone, .inl hdecoded⟩
    · exact .inr ⟨habandoned.noTxn, .inr habandoned.failed⟩

/-- Settles O44: of the three ends only `Abandoned` is in Failed. -/
theorem failureEndsSessionExceptInSweep : Obligations.FailureEndsSessionExceptInSweep := by
  unfold Obligations.FailureEndsSessionExceptInSweep
  intro s u t hrun hcur hlive hstep hfailed
  rcases step_inflight_next hrun hcur hstep with ⟨es, -, rfl⟩ | ⟨es, -, rfl⟩ | ⟨-, hmove⟩
  · rw [show s.txnState = .failed from hfailed] at hlive
    cases hlive
  · rw [show s.txnState = .failed from hfailed] at hlive
    cases hlive
  · rcases hmove.ends hcur hlive with ⟨-, hstill⟩ | ⟨-, hdecoded⟩ | habandoned
    · rw [hfailed] at hstill
      cases hstill
    · cases hfailed.symm.trans hdecoded
    · refine ⟨habandoned.noTxn, habandoned.outside, fun pos e hwho => ?_⟩
      obtain ⟨hsession, hsweep⟩ := habandoned.sweeps pos e hwho
      exact ⟨hsession.trans hrun, hsweep⟩

end Sys2Proof.Machine
end

section
/-! PROOFS. How a transaction begins or is turned away: the request frames (R97, R102, R104), the DAC lines (R97), and the sweep's
positions (R98, R99). -/

namespace Sys2Proof.Machine

/-! A request frame drives its operands and is sent (R97, log entry 3). -/

theorem exec_mcuReq (d : BitVec 1) (t : BitVec 7) (i : Byte) (v : Value) (s : State) :
    exec (.mcuReq d t i v) s = sendRequest .mcu encMcuOp (drive (driveMcu d (t.setWidth 8) i v) s) := rfl

theorem exec_dacWr (r : BitVec 5) (c : BitVec 2) (v : Value) (s : State) :
    exec (.dacWr r 0 c v) s = sendRequest .dac encDacWrOp (drive (driveDacWr (r.setWidth 8) c v) s) := rfl

theorem exec_dacRd (r : BitVec 5) (c : BitVec 2) (s : State) :
    exec (.dacRd r 0 c) s = sendRequest .dac encDacRdOp (drive (driveDacRd (r.setWidth 8) c) s) := rfl

theorem CanSend.drive {s : State} (h : CanSend s) (f : InPorts → InPorts) : CanSend (drive f s) :=
  ⟨h.running, h.noTxn, h.portOpen⟩

/-- Where a request may be sent, one whose encoder returns a frame begins the transaction of that frame. -/
theorem CanSend.sendRequest_frame {peer : Peer} {op : State → State} {bytes : Frame} {s : State} (h : CanSend s)
    (hop : op s = ret (.frame bytes) s) :
    sendRequest peer op s = .next (beginTxn peer bytes .direct (ret (.frame bytes) s)) := by
  rw [sendRequest_running h.running h.noTxn h.portOpen, hop, launch_frame]

/-- Settles O27: each encoder returns the frame its operands came from. -/
theorem requestFramesComplete : Obligations.RequestFramesComplete := by
  unfold Obligations.RequestFramesComplete
  intro s h
  refine ⟨fun d t i v => ?_, fun r c v => ?_, fun r c => ?_⟩
  · rw [exec_mcuReq]
    exact (h.drive _).sendRequest_frame (congrArg (ret · _) (encMcu_of_frame d t i v))
  · rw [exec_dacWr]
    exact (h.drive _).sendRequest_frame (congrArg (ret · _) (encDacWr_of_frame r c v))
  · rw [exec_dacRd]
    exact (h.drive _).sendRequest_frame (congrArg (ret · _) (encDacRd_of_frame r c))

section
variable {peer : Peer} {op : State → State} {s : State}

theorem sendRequest_inflight (hrun : s.session = .running) (hcur : s.current ≠ none) :
    sendRequest peer op s = .refused .transactionInFlight := by
  obtain ⟨t, ht⟩ := Option.ne_none_iff_exists'.mp hcur
  simp only [sendRequest, hrun, ht]

theorem sendRequest_over (hover : s.session ≠ .running) : sendRequest peer op s = .refused .sessionEnded := by
  cases hs : s.session with
  | running => exact absurd hs hover
  | ended e => simp only [sendRequest, hs]
  | terminated => simp only [sendRequest, hs]

theorem sendRequest_closed (hrun : s.session = .running) (hnone : s.current = none) (hport : s.port ≠ .opened) :
    sendRequest peer op s = .refused .portNotOpen := by
  cases hp : s.port with
  | opened => exact absurd hp hport
  | closed => simp only [sendRequest, hrun, hnone, hp]
  | released => simp only [sendRequest, hrun, hnone, hp]

end

/-- Settles O28: driving a frame's operands touches none of what the refusals look at. -/
theorem requestFramesTurnedAway : Obligations.RequestFramesTurnedAway := by
  unfold Obligations.RequestFramesTurnedAway
  intro s i hi
  have hsent : ∃ peer op f, exec i s = sendRequest peer op (drive f s) := by
    rcases hi with ⟨d, t, x, v, rfl⟩ | ⟨r, c, v, rfl⟩ | ⟨r, c, rfl⟩
    · exact ⟨_, _, _, exec_mcuReq d t x v s⟩
    · exact ⟨_, _, _, exec_dacWr r c v s⟩
    · exact ⟨_, _, _, exec_dacRd r c s⟩
  obtain ⟨peer, op, f, hexec⟩ := hsent
  rw [hexec]
  exact ⟨sendRequest_inflight (s := drive f s), sendRequest_over (s := drive f s), sendRequest_closed (s := drive f s)⟩

/-! The lines `W` and `R` (R65, R97). -/

theorem lineDacWrite_fits {i v : Int} (hi : 0 ≤ i ∧ i ≤ 255) (hv : 0 ≤ v ∧ v ≤ 65535) (s : State) :
    lineDacWrite i v s = launch .dac .line (ret (encDacWr (byteOf i) s.cfg.dacCtrlWr (valueOf v))
      (drive (driveDacWr (byteOf i) s.cfg.dacCtrlWr (valueOf v)) s)) := by
  have hfit : firstMisfit [(i, Config.mcuIndexMax), (v, Config.valueMax)] = none := by
    simp [firstMisfit_none, Config.mcuIndexMax, Config.valueMax, hi, hv]
  simp only [lineDacWrite, hfit]
  rfl

theorem lineDacRead_fits {i : Int} (hi : 0 ≤ i ∧ i ≤ 255) (s : State) :
    lineDacRead i s = launch .dac .line (ret (encDacRd (byteOf i) s.cfg.dacCtrlRd)
      (drive (driveDacRd (byteOf i) s.cfg.dacCtrlRd) s)) := by
  have hfit : firstMisfit [(i, Config.mcuIndexMax)] = none := by
    simp [firstMisfit_none, Config.mcuIndexMax, hi]
  simp only [lineDacRead, hfit]
  rfl

theorem valueOf_toNat (v : Value) : valueOf v.toNat = v := by
  simp [valueOf]

/-- Settles O56: the integers fit their ports, and an index up to 31 is legal, so the block answers a frame. -/
theorem dacLinesBeginTransaction : Obligations.DacLinesBeginTransaction := by
  unfold Obligations.DacLinesBeginTransaction
  intro s cs i h
  have hbyte : byteOf i.val = BitVec.ofNat 8 i.val := rfl
  have hlegal : ¬ (BitVec.ofNat 8 i.val).toNat > 31 := by
    rw [BitVec.toNat_ofNat]
    omega
  refine ⟨fun v hprog => ?_, fun hprog => ?_⟩
  · have hstep := h.step_line hprog
    rw [lineStep, lineDacWrite_fits (by omega) (by omega), valueOf_toNat, hbyte, encDacWr_eq_pseudocode, if_neg hlegal,
      launch_frame] at hstep
    exact ⟨_, hstep, rfl, rfl, rfl⟩
  · have hstep := h.step_line hprog
    rw [lineStep, lineDacRead_fits (by omega), hbyte, encDacRd_eq_pseudocode, if_neg hlegal, launch_frame] at hstep
    exact ⟨_, hstep, rfl, rfl, rfl⟩

/-! The sweep's positions (R98, R99). -/

theorem step_sweep {s : State} (hrun : s.session = .running)
    (hreq : ∀ e es, s.events = e :: es → isOutsideRequest e = false) (hnone : s.current = none)
    (hsweep : s.sweep.active = true) : step s = .next (sweepStep s) := by
  rw [step_eq_callerStep hrun hreq]
  simp only [callerStep, hnone, hsweep, if_true]

/-- The sweep presents its position to LIST first. -/
def sweepListed (s : State) : State := listOp (drive (drivePos s.sweep.pos) s)

theorem sweepStep_read {s : State} {e : CommandEntry} (h : s.cfg.table[s.sweep.pos]? = some e) (hd : e.direction = .read) :
    ∃ f, sweepStep s = launch (peerOf e.target.peripheral) (.sweep s.sweep.pos e)
        (ret (encodeEntry s.cfg e 0) (drive f (sweepListed s))) ∧
      ∀ p, (f p).key = p.key ∧ (f p).keyLen = p.keyLen := by
  obtain ⟨f, heq, hkey⟩ := encodeEntryOp_eq e 0 (sweepListed s)
  refine ⟨f, ?_, hkey⟩
  have hread : tableRead s.cfg s.sweep.pos = some e := h
  have hcap : readCapable e = true := by simp [readCapable, hd]
  simp only [sweepStep, hread, hcap, if_true]
  exact congrArg (launch _ _) heq

theorem sweepStep_write {s : State} {e : CommandEntry} (h : s.cfg.table[s.sweep.pos]? = some e)
    (hd : e.direction = .write) : sweepStep s = setSweep (sweepNext s) (sweepListed s) := by
  have hread : tableRead s.cfg s.sweep.pos = some e := h
  have hcap : ¬ readCapable e = true := by simp [readCapable, hd]
  simp only [sweepStep, hread, if_neg hcap, sweepAdvance_eq]
  rfl

theorem sweepStep_past_end {s : State} (h : s.cfg.table.length ≤ s.sweep.pos) :
    sweepStep s = setSweep (if s.stop = true then ⟨false, s.sweep.pos⟩ else ⟨true, 0⟩) s := by
  have hread : tableRead s.cfg s.sweep.pos = none := List.getElem?_eq_none h
  simp only [sweepStep, hread]
  split <;> rfl

/-- Settles O58: the four positions a sweep can stand at. -/
theorem sweepVisitsEntries : Obligations.SweepVisitsEntries := by
  unfold Obligations.SweepVisitsEntries
  intro s hrun hreq hnone hsweep
  rw [step_sweep hrun hreq hnone hsweep]
  refine ⟨fun e f he hd henc => ?_, fun e err he hd henc => ?_, fun e he hd => ?_, fun hpast => ?_⟩
  · obtain ⟨g, heq, -⟩ := sweepStep_read he hd
    rw [henc, launch_frame] at heq
    exact ⟨_, rfl, by simp [heq, beginTxn, sweepListed, listOp_eq]⟩
  · obtain ⟨g, heq, -⟩ := sweepStep_read he hd
    rw [henc, launch_error, reject, sweepAfterEntry_eq] at heq
    refine ⟨_, rfl, ?_⟩
    rw [heq]
    exact ⟨rfl, hnone, hrun, rfl, rfl, rfl⟩
  · rw [sweepStep_write he hd]
    refine ⟨_, rfl, hnone, hrun, rfl, rfl, fun hstop hcheck => if_pos ⟨hstop, hcheck⟩, fun hgo => if_neg ?_⟩
    rintro ⟨hstop, hcheck⟩
    rcases hgo with hgo | hgo
    · simp [hstop] at hgo
    · simp [hcheck] at hgo
  · rw [sweepStep_past_end hpast]
    rfl

end Sys2Proof.Machine
end

section
/-! PROOFS. Everything a step can do while nothing is in flight, said once; and that whatever step ends the session releases
the Bus Port (R104, R127). -/

namespace Sys2Proof.Machine

theorem portsFit_of_key {c : Params} {p q : InPorts} (h : PortsFit c p) (hkey : q.key = p.key ∧ q.keyLen = p.keyLen) :
    PortsFit c q :=
  ⟨hkey.1 ▸ h.1, hkey.2 ▸ h.2⟩

/-- `u` is `s` but for what stands on the ports, what was reported, the cursor of `H`, and the commands and events still to
come; the transaction state may have gone to Idle, and the ports keep their shape. -/
structure Quiet (s u : State) : Prop where
  cfg          : u.cfg = s.cfg
  current      : u.current = s.current
  sweep        : u.sweep = s.sweep
  selectedPeer : u.selectedPeer = s.selectedPeer
  port         : u.port = s.port
  session      : u.session = s.session
  busLog       : u.busLog = s.busLog
  txnState     : u.txnState = s.txnState ∨ u.txnState = .idle
  fits         : PortsFit s.cfg s.inp → PortsFit s.cfg u.inp

namespace Quiet

variable {s u : State}

theorem refl : Quiet s s := ⟨rfl, rfl, rfl, rfl, rfl, rfl, rfl, .inl rfl, id⟩

theorem ret (h : Quiet s u) (r : OpResult) : Quiet s (ret r u) :=
  ⟨h.cfg, h.current, h.sweep, h.selectedPeer, h.port, h.session, h.busLog, h.txnState, h.fits⟩

theorem report (h : Quiet s u) (r : Report) : Quiet s (report r u) :=
  ⟨h.cfg, h.current, h.sweep, h.selectedPeer, h.port, h.session, h.busLog, h.txnState, h.fits⟩

theorem setHelp (h : Quiet s u) (n : Option Nat) : Quiet s (setHelp n u) :=
  ⟨h.cfg, h.current, h.sweep, h.selectedPeer, h.port, h.session, h.busLog, h.txnState, h.fits⟩

theorem setEvents (h : Quiet s u) (es : List Event) : Quiet s (setEvents es u) :=
  ⟨h.cfg, h.current, h.sweep, h.selectedPeer, h.port, h.session, h.busLog, h.txnState, h.fits⟩

theorem takeCommand (h : Quiet s u) (cs : List Command) : Quiet s { u with program := cs } :=
  ⟨h.cfg, h.current, h.sweep, h.selectedPeer, h.port, h.session, h.busLog, h.txnState, h.fits⟩

theorem setIdle (h : Quiet s u) : Quiet s (setTxn .idle u) :=
  ⟨h.cfg, h.current, h.sweep, h.selectedPeer, h.port, h.session, h.busLog, .inr rfl, h.fits⟩

theorem drive (h : Quiet s u) {f : InPorts → InPorts} (hf : ∀ p, PortsFit s.cfg p → PortsFit s.cfg (f p)) :
    Quiet s (drive f u) :=
  ⟨h.cfg, h.current, h.sweep, h.selectedPeer, h.port, h.session, h.busLog, h.txnState, fun hs => hf _ (h.fits hs)⟩

/-- Driving ports other than the key's keeps their shape. -/
theorem driveOther (h : Quiet s u) {f : InPorts → InPorts} (hf : ∀ p, (f p).key = p.key ∧ (f p).keyLen = p.keyLen) :
    Quiet s (Machine.drive f u) :=
  h.drive fun p hp => portsFit_of_key hp (hf p)

theorem presentWord (h : Quiet s u) (ch : Channel) (bytes : List Byte) : Quiet s (presentWord ch bytes u) := by
  unfold Machine.presentWord
  split
  · exact h.driveOther fun _ => ⟨rfl, rfl⟩
  · exact h

theorem helpStep (h : Quiet s u) (n : Nat) : Quiet s (helpStep n u) := by
  have hlist := (h.driveOther (f := drivePos n) fun _ => ⟨rfl, rfl⟩).ret (listAt u.cfg n)
  unfold Machine.helpStep
  split
  · exact (hlist.report _).setHelp _
  · exact hlist.setHelp _

end Quiet

/-- Whether the session on the bus is under way: its sweep is, or the Bus Port is opened. A transaction begins and a sweep goes on
only then (R127). -/
def OnBus (s : State) : Prop := s.sweep.active = true ∨ s.port = .opened

/-- Everything a step can do while nothing is in flight. -/
inductive RestMove (s : State) : State → Prop where
  | quiet {u : State} (h : Quiet s u) : RestMove s u
  | ended {u : State} (e : ExitStatus) (h : Quiet s u) : RestMove s (endSession e u)
  | begun {u : State} {peer : Peer} {f : Frame} {who : Caller} (hbus : OnBus s) (h : Quiet s u)
      (hshape : frameOk peer f = true) : RestMove s (beginTxn peer f who u)
  | swept {u : State} (w : Sweep) (hbus : OnBus s) (h : Quiet s u) : RestMove s (setSweep w u)
  | waited {u : State} (w : Sweep) (n : Nat) (hbus : OnBus s) (h : Quiet s u) :
      RestMove s (setSweep w (logCall (.delay Config.sweepPeriod n) u))
  | opened (es : List Event) : RestMove s (setPort .opened (setEvents es s))
  | ran {i : Instr} {u v : State} (h : Quiet s u) (hexec : exec i u = .next v) : RestMove s v

/-! What the block answers to a request is a frame of its peer's shape, if it is a frame (R25, R60). -/

/-- A frame this result holds has the peer's shape. -/
def FrameFits (peer : Peer) (r : OpResult) : Prop :=
  ∀ f, (r = .frame f ∨ ∃ pos e n, r = .command pos e f n) → frameOk peer f = true

theorem frameFits_error (peer : Peer) (e : Err) : FrameFits peer (.error e) := by
  rintro f (h | ⟨_, _, _, h⟩) <;> cases h

theorem frameFits_frame {peer : Peer} {f : Frame} (h : frameOk peer f = true) : FrameFits peer (.frame f) := by
  rintro f (h' | ⟨_, _, _, h'⟩) <;> cases h'
  exact h

theorem frameFits_encMcu (d : BitVec 1) (t i : Byte) (v : Value) : FrameFits .mcu (encMcu d t i v) := by
  rcases encMcu_cases d t i v with ⟨-, h⟩ | ⟨-, h⟩ <;> rw [h]
  · exact frameFits_error _ _
  · exact frameFits_frame rfl

theorem frameFits_encDacWr (i : Byte) (c : BitVec 2) (v : Value) : FrameFits .dac (encDacWr i c v) := by
  rcases encDacWr_cases i c v with ⟨-, h⟩ | ⟨-, h⟩ <;> rw [h]
  · exact frameFits_error _ _
  · exact frameFits_frame (by simp [frameOk, Config.dacWrLen])

theorem frameFits_encDacRd (i : Byte) (c : BitVec 2) : FrameFits .dac (encDacRd i c) := by
  rcases encDacRd_cases i c with ⟨-, h⟩ | ⟨-, h⟩ <;> rw [h]
  · exact frameFits_error _ _
  · exact frameFits_frame (by simp [frameOk, Config.dacRdLen])

theorem frameFits_encodeEntry (p : Params) (e : CommandEntry) (v : Value) :
    FrameFits (peerOf e.target.peripheral) (encodeEntry p e v) := by
  cases h : e.target.peripheral with
  | mcu c =>
    rw [encodeEntry_mcu p v h]
    exact frameFits_frame rfl
  | dac =>
    cases hd : e.direction with
    | write => exact encodeEntry_dac_write p v h hd ▸ frameFits_encDacWr _ _ _
    | read => exact encodeEntry_dac_read p v h hd ▸ frameFits_encDacRd _ _

theorem frameFits_encCmd {p : Params} {k : List Byte} {pos : Nat} {e : CommandEntry} (h : lookup p k = .entry pos e)
    (v : Value) : FrameFits (peerOf e.target.peripheral) (encCmd p k v) := by
  rcases encCmd_cases p k v with ⟨-, heq⟩ | ⟨pos', e', -, -, -, hl, ⟨f, hf, heq⟩ | ⟨-, -, heq⟩⟩ <;> rw [heq]
  · exact frameFits_error _ _
  · cases hl.symm.trans h
    rintro f' (h' | ⟨_, _, _, h'⟩) <;> cases h'
    exact frameFits_encodeEntry p e v f (.inl hf)
  · exact frameFits_error _ _

/-! The caller's procedures. -/

section
variable {s u : State} (hbus : OnBus s) (h : Quiet s u)
include hbus h

theorem reject_restMove (who : Caller) (e : Err) : RestMove s (reject who e u) := by
  rcases reject_cases who e u with ⟨heq, -⟩ | ⟨-, heq⟩ | ⟨_, _, -, heq⟩ <;> rw [heq]
  · exact .quiet (h.report _)
  · exact .ended _ (h.report _)
  · rw [sweepAfterEntry_eq]
    exact .waited _ _ hbus (h.report _)

theorem launch_restMove {peer : Peer} {r : OpResult} (who : Caller) (hr : FrameFits peer r) :
    RestMove s (launch peer who (ret r u)) := by
  rcases launch_cases peer who (ret r u) with ⟨f, hf, heq⟩ | ⟨e, -, heq⟩ | heq <;> rw [heq]
  · simp only [ret_result, Option.some.injEq] at hf
    exact .begun hbus (h.ret r) (hr f hf)
  · exact reject_restMove hbus (h.ret r).setIdle who e
  · exact .quiet (h.ret r)

theorem lineCommand_restMove (k : List Byte) (tok : List Char) : RestMove s (lineCommand k tok u) := by
  unfold lineCommand
  split_ifs with hlen
  · exact reject_restMove hbus h _ _
  · have hfit : ∀ p, PortsFit s.cfg p → PortsFit s.cfg (driveKey k p) := fun p hp =>
      driveKey_fits hp (by rw [← h.cfg]; omega)
    have hlookup : Quiet s (lookupOp (drive (driveKey k) u)) := (h.drive hfit).ret _
    dsimp only
    split
    case h_1 pos e hentry =>
      split
      case h_1 v hval =>
        have hkey : keyOf (driveValue v (driveKey k u.inp)) = k := keyOf_driveKey k u.inp
        exact launch_restMove hbus (hlookup.driveOther (f := driveValue v) fun _ => ⟨rfl, rfl⟩) _
          (frameFits_encCmd (hkey.symm ▸ hentry : lookup u.cfg (keyOf (driveValue v (driveKey k u.inp))) = _) v)
      case h_2 => exact reject_restMove hbus hlookup _ _
    case h_2 => exact reject_restMove hbus hlookup _ _

theorem lineDacWrite_restMove (i v : Int) : RestMove s (lineDacWrite i v u) := by
  unfold lineDacWrite
  split
  · exact reject_restMove hbus h _ _
  · exact launch_restMove hbus (h.driveOther (f := driveDacWr _ _ _) fun _ => ⟨rfl, rfl⟩) _ (frameFits_encDacWr _ _ _)

theorem lineDacRead_restMove (i : Int) : RestMove s (lineDacRead i u) := by
  unfold lineDacRead
  split
  · exact reject_restMove hbus h _ _
  · exact launch_restMove hbus (h.driveOther (f := driveDacRd _ _) fun _ => ⟨rfl, rfl⟩) _ (frameFits_encDacRd _ _)

theorem oneShotStep_restMove (d t i v : Int) : RestMove s (oneShotStep d t i v u) := by
  unfold oneShotStep
  split
  · exact reject_restMove hbus h _ _
  · exact launch_restMove hbus (h.driveOther (f := driveMcu _ _ _ _) fun _ => ⟨rfl, rfl⟩) _ (frameFits_encMcu _ _ _ _)

theorem lineStep_restMove (l : Line) : RestMove s (lineStep l u) := by
  cases l with
  | help => exact .quiet (h.setHelp _)
  | quit => exact .ended _ h
  | command k tok => exact lineCommand_restMove hbus h k tok
  | dacWrite i v => exact lineDacWrite_restMove hbus h i v
  | dacRead i => exact lineDacRead_restMove hbus h i

end

theorem sweepStep_restMove {s : State} (hsweep : s.sweep.active = true) : RestMove s (sweepStep s) := by
  have hbus : OnBus s := .inl hsweep
  have hlist : Quiet s (sweepListed s) := (Quiet.refl.driveOther (f := drivePos s.sweep.pos) fun _ => ⟨rfl, rfl⟩).ret _
  cases he : s.cfg.table[s.sweep.pos]? with
  | none =>
    rw [sweepStep_past_end (List.getElem?_eq_none_iff.mp he)]
    exact .swept _ hbus .refl
  | some e =>
    cases hd : e.direction with
    | read =>
      obtain ⟨f, heq, hkey⟩ := sweepStep_read he hd
      rw [heq]
      exact launch_restMove hbus (hlist.driveOther hkey) _ (frameFits_encodeEntry _ _ _)
    | write =>
      rw [sweepStep_write he hd]
      exact .swept _ hbus hlist

theorem openStep_restMove {s u : State} (h : openStep s = .next u) : RestMove s u := by
  rcases openStep_next h with rfl | ⟨es, rfl⟩ | ⟨es, rfl⟩
  · exact .quiet .refl
  · exact .opened es
  · exact .ended _ ((Quiet.refl.setEvents es).report _)

theorem execWord_restMove {s u v : State} {ch : Channel} {bytes : List Byte} (h : Quiet s u)
    (hv : execWord ch bytes u = .next v) : RestMove s v := by
  unfold execWord at hv
  split at hv
  · exact .ran h hv
  · cases hv

/-- What a command can do, where the port is open if the command needs it. -/
theorem commandStep_restMove {s u v : State} {c : Command} (hport : needsPort c = true → s.port = .opened)
    (h : Quiet s u) (hv : commandStep c u = .next v) : RestMove s v := by
  cases c with
  | eval p =>
    simp only [commandStep] at hv
    split_ifs at hv
    · cases hv
      exact .quiet (h.report _)
    · have hfit : ∀ old, PortsFit s.cfg old → PortsFit s.cfg (fitPorts u.cfg p old) := fun old hold => by
        rw [h.cfg]
        exact fitPorts_fits hold
      exact execWord_restMove (h.drive hfit) hv
  | word ch bytes => exact execWord_restMove (h.presentWord ch bytes) hv
  | line l =>
    cases hv
    exact lineStep_restMove (.inr (hport rfl)) h l
  | oneShot d t i w =>
    cases hv
    exact oneShotStep_restMove (.inr (hport rfl)) h d t i w
  | sweep =>
    cases hv
    exact .swept _ (.inr (hport rfl)) h

/-- The caller's moves: a transition of the transaction in flight, or a move of those while nothing is. -/
theorem CallerMove.cases {s u : State} (hrun : s.session = .running) (h : CallerMove s u) :
    (∃ t, s.current = some t ∧ EngineMove t s u) ∨ (s.current = none ∧ RestMove s u) := by
  cases h with
  | engine hcur hstep => exact .inl ⟨_, hcur, engineStep_next hrun hcur hstep⟩
  | sweep hnone hsweep => exact .inr ⟨hnone, sweepStep_restMove hsweep⟩
  | help hnone => exact .inr ⟨hnone, .quiet (Quiet.refl.helpStep _)⟩
  | stop hnone => exact .inr ⟨hnone, .ended _ .refl⟩
  | nothing hnone => exact .inr ⟨hnone, .quiet .refl⟩
  | opening hnone _ _ _ _ _ hstep => exact .inr ⟨hnone, openStep_restMove hstep⟩
  | @command c cs _ hnone _ _ _ _ hport hstep =>
    have hopen : needsPort c = true → s.port = .opened := fun hn => not_not.mp fun hp => hport ⟨hn, hp⟩
    exact .inr ⟨hnone, commandStep_restMove hopen (Quiet.refl.takeCommand cs) hstep⟩

/-! The release of the Bus Port. -/

theorem releasedPort_ne_opened (p : PortState) : releasedPort p ≠ .opened := by
  cases p <;> simp [releasedPort]

theorem failTxn_port {t : Txn} {stage : BusStage} {s : State} (hrun : s.session = .running)
    (hover : (failTxn t stage s).session ≠ .running) : (failTxn t stage s).port = releasedPort s.port := by
  rcases failTxn_cases t stage s with ⟨-, heq⟩ | ⟨-, -, -, heq⟩ <;> rw [heq] at hover ⊢
  · rfl
  · rw [sweepAfterEntry_eq] at hover
    exact absurd hrun hover

theorem finishTxn_port {t : Txn} {v : Value} {s : State} (hrun : s.session = .running)
    (hover : (finishTxn t v s).session ≠ .running) : (finishTxn t v s).port = releasedPort s.port := by
  rcases finishTxn_cases t v s with ⟨-, heq⟩ | ⟨-, heq⟩ | ⟨-, -, -, heq⟩ <;> rw [heq] at hover ⊢
  · exact absurd hrun hover
  · rfl
  · rw [sweepAfterEntry_eq] at hover
    exact absurd hrun hover

theorem EngineMove.port {t : Txn} {s u : State} (h : EngineMove t s u) (hrun : s.session = .running)
    (hover : u.session ≠ .running) : u.port = releasedPort s.port := by
  cases h with
  | waits | selected | written | settled | readComplete | cleared => exact absurd hrun hover
  | selectFailed => exact failTxn_port (s := setPeer _ (logCall _ (setEvents _ s))) hrun hover
  | writeFailed | readFailed => exact failTxn_port (s := logCall _ (setEvents _ s)) hrun hover
  | @decoded c v => exact finishTxn_port (s := ret (.value v) (drive (driveOp c) s)) hrun hover

theorem RestMove.port {s u : State} (h : RestMove s u) (hrun : s.session = .running) (hover : u.session ≠ .running) :
    u.port = releasedPort s.port := by
  cases h with
  | quiet h | begun _ h | swept _ _ h | waited _ _ _ h => exact absurd (h.session.trans hrun) hover
  | ended e h => exact congrArg releasedPort h.port
  | opened => exact absurd hrun hover
  | ran h hexec =>
    obtain ⟨-, -, -, -, -, hsession, -⟩ := instructionFrame _ _ _ hexec
    exact absurd (hsession.trans (h.session.trans hrun)) hover

/-- Settles O35: a session ends by `endSession` or `terminateSession` alone, and both release the port. -/
theorem portReleasedOnEveryExit : Obligations.PortReleasedOnEveryExit := by
  unfold Obligations.PortReleasedOnEveryExit
  intro s u hrun hstep hover
  have hport : u.port = releasedPort s.port := by
    rcases step_next hstep with ⟨hover', -⟩ | ⟨-, ⟨es, -, rfl⟩ | ⟨es, -, rfl⟩ | ⟨-, hmove⟩⟩
    · exact absurd hrun hover'
    · exact absurd hrun hover
    · rfl
    · rcases hmove.cases hrun with ⟨t, -, hengine⟩ | ⟨-, hrest⟩
      · exact hengine.port hrun hover
      · exact hrest.port hrun hover
  rw [hport]
  exact ⟨releasedPort_ne_opened _, fun hopen => by rw [hopen]; rfl⟩

end Sys2Proof.Machine
end

section
/-! PROOFS. Every step keeps the engine's invariant (R93, R95, R96, R128, R130): a transaction in flight adds its next call to
the record, or ends with the record between transactions; and while nothing is in flight only other waits are recorded. -/

namespace Sys2Proof.Machine

theorem busPhase_append (log : List BusCall) (c : BusCall) : busPhase (log ++ [c]) = busNext (busPhase log) c := by
  simp [busPhase]

/-! While nothing is in flight. -/

/-- The invariant with nothing in flight. -/
structure Resting (s : State) : Prop where
  noTxn    : s.current = none
  free     : busPhase s.busLog = .free
  state    : s.txnState = .idle ∨ isTerminal s.txnState = true
  sweeping : s.session = .running → s.sweep.active = true → s.port = .opened
  ports    : PortsFit s.cfg s.inp

theorem Resting.engineInv {s : State} (h : Resting s) : EngineInv s where
  none_inflight _ := ⟨h.free, h.state⟩
  inflight t ht := by simp [h.noTxn] at ht
  sweeping := h.sweeping
  ports := h.ports

theorem EngineInv.resting {s : State} (h : EngineInv s) (hnone : s.current = none) : Resting s where
  noTxn := hnone
  free := (h.none_inflight hnone).1
  state := (h.none_inflight hnone).2
  sweeping := h.sweeping
  ports := h.ports

namespace Resting

variable {s u : State}

theorem quiet (h : Resting s) (hq : Quiet s u) : Resting u where
  noTxn := hq.current.trans h.noTxn
  free := by rw [hq.busLog, h.free]
  state := by
    rcases hq.txnState with heq | heq
    · exact heq ▸ h.state
    · exact .inl heq
  sweeping := by
    rw [hq.session, hq.sweep, hq.port]
    exact h.sweeping
  ports := hq.cfg ▸ hq.fits h.ports

theorem endSession (h : Resting s) (e : ExitStatus) : Resting (endSession e s) :=
  ⟨rfl, h.free, h.state, nofun, h.ports⟩

theorem setSweep (h : Resting s) (hopen : s.port = .opened) (w : Sweep) : Resting (setSweep w s) :=
  ⟨h.noTxn, h.free, h.state, fun _ _ => hopen, h.ports⟩

theorem setPort (h : Resting s) : Resting (setPort .opened s) :=
  ⟨h.noTxn, h.free, h.state, fun _ _ => rfl, h.ports⟩

/-- A wait between transactions leaves the record free. -/
theorem logDelay (h : Resting s) (ms parts : Nat) : Resting (logCall (.delay ms parts) s) :=
  ⟨h.noTxn, by rw [logCall_busLog, busPhase_append, h.free]; rfl, h.state, h.sweeping, h.ports⟩

theorem sweepAfterEntry (h : Resting s) (hopen : s.port = .opened) : Resting (sweepAfterEntry s) := by
  rw [sweepAfterEntry_eq]
  exact (h.logDelay _ _).setSweep hopen _

theorem beginTxn (h : Resting s) (hopen : s.port = .opened) {peer : Peer} {f : Frame} (hshape : frameOk peer f = true)
    (who : Caller) : EngineInv (beginTxn peer f who s) where
  none_inflight := nofun
  inflight := by
    rintro t ⟨⟩
    exact ⟨rfl, hshape, h.free, fun hn => absurd rfl hn, fun _ => hopen⟩
  sweeping := h.sweeping
  ports := h.ports

/-- An instruction begins a transaction only where one may be sent; and with nothing in flight no response is awaited. -/
theorem exec {i : Instr} (h : Resting s) (hexec : exec i s = .next u) : EngineInv u := by
  rcases exec_next hexec with ⟨r, -, rfl⟩ | ⟨peer, bytes, f, rfl, hsend, hshape, hkey⟩ |
    ⟨peer, bytes, f, v, rfl, -, hkey⟩
  · exact (h.quiet (Quiet.refl.ret r)).engineInv
  · exact (h.quiet ((Quiet.refl.driveOther hkey).ret _)).beginTxn hsend.portOpen hshape .direct
  · rw [receiveFrame_unawaited]
    · exact (h.quiet ((Quiet.refl.driveOther hkey).ret _)).engineInv
    · rintro ⟨-, ⟨t, ht, -⟩, -⟩
      exact nomatch h.noTxn.symm.trans ht

/-- On the bus the port is open: for a sweep under way the invariant says so. -/
theorem port_of_onBus (h : Resting s) (hrun : s.session = .running) (hbus : OnBus s) : s.port = .opened :=
  hbus.elim (h.sweeping hrun) id

theorem restMove (h : Resting s) (hrun : s.session = .running) (hmove : RestMove s u) : EngineInv u := by
  cases hmove with
  | quiet hq => exact (h.quiet hq).engineInv
  | ended e hq => exact ((h.quiet hq).endSession e).engineInv
  | begun hbus hq hshape => exact (h.quiet hq).beginTxn (hq.port.trans (h.port_of_onBus hrun hbus)) hshape _
  | swept w hbus hq => exact ((h.quiet hq).setSweep (hq.port.trans (h.port_of_onBus hrun hbus)) w).engineInv
  | waited w n hbus hq =>
    exact (((h.quiet hq).logDelay _ n).setSweep (hq.port.trans (h.port_of_onBus hrun hbus)) w).engineInv
  | opened es => exact (h.quiet (Quiet.refl.setEvents es)).setPort.engineInv
  | ran hq hexec => exact (h.quiet hq).exec hexec

end Resting

/-! With a transaction in flight. -/

/-- A closed transaction leaves a record that stands between transactions. -/
theorem resting_closeTxn {x : TxnState} {r : Report} {s : State} (hx : isTerminal x = true)
    (hfree : busPhase s.busLog = .free) (hopen : s.port = .opened) (hfit : PortsFit s.cfg s.inp) :
    Resting (closeTxn x r s) :=
  ⟨rfl, hfree, .inr hx, fun _ _ => hopen, hfit⟩

theorem finishTxn_keeps {t : Txn} {v : Value} {s : State} (hfree : busPhase s.busLog = .free) (hopen : s.port = .opened)
    (hfit : PortsFit s.cfg s.inp) : EngineInv (finishTxn t v s) := by
  have hclosed : Resting (closeTxn .decoded (.value t.who v) s) := resting_closeTxn rfl hfree hopen hfit
  rcases finishTxn_cases t v s with ⟨-, heq⟩ | ⟨-, heq⟩ | ⟨-, -, -, heq⟩ <;> rw [heq]
  · exact hclosed.engineInv
  · exact (hclosed.endSession _).engineInv
  · exact (hclosed.sweepAfterEntry hopen).engineInv

theorem failTxn_keeps {t : Txn} {stage : BusStage} {s : State} (hfree : busPhase s.busLog = .free)
    (hopen : s.port = .opened) (hfit : PortsFit s.cfg s.inp) : EngineInv (failTxn t stage s) := by
  have hclosed : Resting (closeTxn .failed (.failure t.who (.busError stage)) s) := resting_closeTxn rfl hfree hopen hfit
  rcases failTxn_cases t stage s with ⟨-, heq⟩ | ⟨-, -, -, heq⟩ <;> rw [heq]
  · exact (hclosed.endSession _).engineInv
  · exact (hclosed.sweepAfterEntry hopen).engineInv

/-- `u` is `s` with one more bus call on record; the transaction state, the selected peer and the ports may have changed, the
ports keeping their shape. -/
structure Called (c : BusCall) (s u : State) : Prop where
  cfg     : u.cfg = s.cfg
  current : u.current = s.current
  sweep   : u.sweep = s.sweep
  port    : u.port = s.port
  session : u.session = s.session
  busLog  : u.busLog = s.busLog ++ [c]
  fits    : PortsFit s.cfg s.inp → PortsFit s.cfg u.inp

/-- Where the record of a transaction in flight stands after one more call. -/
theorem TxnInv.busPhase_called {t : Txn} {c : BusCall} {s u : State} (h : TxnInv s t) (hcall : Called c s u) :
    busPhase u.busLog = busNext (phaseOf (peerAddr s.cfg t.peer) s.txnState) c := by
  rw [hcall.busLog, busPhase_append, h.order]

/-- A call by which the record goes on to where the new state wants it keeps the invariant. -/
theorem EngineInv.called {t : Txn} {c : BusCall} {s u : State} (h : EngineInv s) (hcur : s.current = some t)
    (hcall : Called c s u) (hlive : isTerminal u.txnState = false) (hpeer : u.selectedPeer = peerAddr s.cfg t.peer)
    (hnext : busNext (phaseOf (peerAddr s.cfg t.peer) s.txnState) c = phaseOf (peerAddr s.cfg t.peer) u.txnState) :
    EngineInv u where
  none_inflight hnone := by simp [hcall.current, hcur] at hnone
  inflight t' ht' := by
    obtain rfl : t = t' := Option.some.inj (hcur.symm.trans (hcall.current.symm.trans ht'))
    have ht := h.inflight t hcur
    refine ⟨hlive, ht.shape, ?_, fun _ => ?_, fun hrun => ?_⟩
    · rw [ht.busPhase_called hcall, hnext, hcall.cfg]
    · rw [hpeer, hcall.cfg]
    · rw [hcall.port]
      exact ht.port (hcall.session ▸ hrun)
  sweeping := by
    rw [hcall.session, hcall.sweep, hcall.port]
    exact h.sweeping
  ports := hcall.cfg ▸ hcall.fits h.ports

/-- A call by which the record comes to stand between transactions may fail the transaction. -/
theorem EngineInv.failed {t : Txn} {stage : BusStage} {c : BusCall} {s u : State} (h : EngineInv s)
    (hrun : s.session = .running) (hcur : s.current = some t) (hcall : Called c s u)
    (hnext : busNext (phaseOf (peerAddr s.cfg t.peer) s.txnState) c = .free) : EngineInv (failTxn t stage u) := by
  have ht := h.inflight t hcur
  exact failTxn_keeps ((ht.busPhase_called hcall).trans hnext) (hcall.port.trans (ht.port hrun))
    (hcall.cfg ▸ hcall.fits h.ports)

/-- Every move of a live transaction makes the call that its state asks for next. -/
theorem EngineInv.engineMove {t : Txn} {s u : State} (h : EngineInv s) (hrun : s.session = .running)
    (hcur : s.current = some t) (hmove : EngineMove t s u) : EngineInv u := by
  have ht := h.inflight t hcur
  cases hmove with
  | waits => exact h
  | selected hstate =>
    exact h.called hcur ⟨rfl, rfl, rfl, rfl, rfl, rfl, id⟩ rfl rfl (by rw [hstate]; rfl)
  | @selectFailed a es hstate =>
    have hcall : Called (.selectPeer (peerAddr s.cfg t.peer) false) s
        (setPeer a (logCall (.selectPeer (peerAddr s.cfg t.peer) false) (setEvents es s))) :=
      ⟨rfl, rfl, rfl, rfl, rfl, rfl, id⟩
    exact h.failed hrun hcur hcall (by rw [hstate]; rfl)
  | written hstate =>
    have hpeer := ht.peer (by simp [hstate])
    exact h.called hcur ⟨rfl, rfl, rfl, rfl, rfl, rfl, id⟩ rfl hpeer
      (by simp [hstate, phaseOf, busNext, hpeer, writeDone])
  | @writeFailed w es hstate hw =>
    have hpeer := ht.peer (by simp [hstate])
    have hcall : Called (.write s.selectedPeer t.frame w) s
        (logCall (.write s.selectedPeer t.frame w) (setEvents es s)) := ⟨rfl, rfl, rfl, rfl, rfl, rfl, id⟩
    refine h.failed hrun hcur hcall ?_
    cases w with
    | none => simp [hstate, phaseOf, busNext, hpeer]
    | some n =>
      have hn := hw n rfl
      simp [hstate, phaseOf, busNext, hpeer, hn, hn.ne]
  | settled hstate =>
    exact h.called hcur ⟨rfl, rfl, rfl, rfl, rfl, rfl, id⟩ rfl (ht.peer (by simp [hstate]))
      (by simp [hstate, phaseOf, busNext, settleStep])
  | @readComplete bs es hstate hlen =>
    have hpeer := ht.peer (by simp [hstate])
    have hfit : PortsFit s.cfg s.inp → PortsFit s.cfg (driveResponse bs s.inp) := fun hs =>
      portsFit_of_key hs (driveResponse_key bs s.inp)
    exact h.called hcur ⟨rfl, rfl, rfl, rfl, rfl, rfl, hfit⟩ rfl hpeer
      (by simp [hstate, phaseOf, busNext, hpeer, hlen, readDone])
  | @readFailed got es hstate hgot =>
    have hpeer := ht.peer (by simp [hstate])
    have hcall : Called (.read s.selectedPeer (respLen t.peer) got) s
        (logCall (.read s.selectedPeer (respLen t.peer) got) (setEvents es s)) := ⟨rfl, rfl, rfl, rfl, rfl, rfl, id⟩
    refine h.failed hrun hcur hcall ?_
    cases got with
    | none => simp [hstate, phaseOf, busNext, hpeer]
    | some bs => simp [hstate, phaseOf, busNext, hpeer, (hgot bs rfl).le]
  | decoded hstate =>
    have hfree : busPhase s.busLog = .free := by rw [ht.order, hstate]; rfl
    exact finishTxn_keeps hfree (ht.port hrun) h.ports
  | cleared hterminal => simp [ht.live] at hterminal

/-! The requests from outside (R99, U13). -/

theorem EngineInv.noteStop {s : State} (h : EngineInv s) (es : List Event) :
    EngineInv { s with events := es, stop := true } where
  none_inflight := h.none_inflight
  inflight t ht := by
    obtain ⟨hlive, hshape, horder, hpeer, hport⟩ := h.inflight t ht
    exact ⟨hlive, hshape, horder, hpeer, hport⟩
  sweeping := h.sweeping
  ports := h.ports

theorem EngineInv.terminate {s : State} (h : EngineInv s) (es : List Event) :
    EngineInv (terminateSession (setEvents es s)) where
  none_inflight := h.none_inflight
  inflight t ht := by
    obtain ⟨hlive, hshape, horder, hpeer, -⟩ := h.inflight t ht
    exact ⟨hlive, hshape, horder, hpeer, nofun⟩
  sweeping := nofun
  ports := h.ports

/-- Settles O46: by what the step does: nothing, a request from outside, a transition of the transaction in flight, or a move
with nothing in flight. -/
theorem stepKeepsEngineInv : Obligations.StepKeepsEngineInv := by
  unfold Obligations.StepKeepsEngineInv
  intro s u h hstep
  rcases step_next hstep with ⟨-, rfl⟩ | ⟨hrun, ⟨es, -, rfl⟩ | ⟨es, -, rfl⟩ | ⟨-, hmove⟩⟩
  · exact h
  · exact h.noteStop es
  · exact h.terminate es
  · rcases hmove.cases hrun with ⟨t, hcur, hengine⟩ | ⟨hnone, hrest⟩
    · exact h.engineMove hrun hcur hengine
    · exact (h.resting hnone).restMove hrun hrest

end Sys2Proof.Machine
end

section
/-! PROOFS. What no step drops (R110), and what an error on a command line (R105, R113) and a stop request (R112) lead to. -/

namespace Sys2Proof.Machine

/-! The record of bus calls and the reports (S5, R110): of a chain's operations, one adds to each, and none takes away. -/

theorem OpChain.busLog_grows {s u : State} (h : OpChain s u) : s.busLog <+: u.busLog := by
  induction h with
  | refl => exact ⟨[], List.append_nil _⟩
  | logCall c _ ih => exact ih.trans ⟨[c], rfl⟩
  | _ => assumption

theorem OpChain.reports_grow {s u : State} (h : OpChain s u) : s.reports <+: u.reports := by
  induction h with
  | refl => exact ⟨[], List.append_nil _⟩
  | report r _ ih => exact ih.trans ⟨[r], rfl⟩
  | _ => assumption

/-- Settles O48: no operation of a step's chain drops anything from either list. -/
theorem recordsOnlyGrow : Obligations.RecordsOnlyGrow := by
  unfold Obligations.RecordsOnlyGrow
  intro s u h
  exact ⟨(step_opChain h).busLog_grows, (step_opChain h).reports_grow⟩

/-! A command line's validation errors (R105 to R108, R113). -/

/-- A line was turned away with this error: it is reported, and the transaction in flight, the record of
bus calls, the session and the commands are as they were. -/
structure TurnedAway (err : Err) (s u : State) : Prop where
  current : u.current = s.current
  busLog  : u.busLog = s.busLog
  session : u.session = s.session
  program : u.program = s.program
  reports : u.reports = s.reports ++ [.failure .line err]

theorem turnedAway_reject (err : Err) (s : State) : TurnedAway err s (reject .line err s) := ⟨rfl, rfl, rfl, rfl, rfl⟩

/-- A transaction that the block's own error leaves unattempted is turned away with that error (R96). -/
theorem turnedAway_launch_error (err : Err) (peer : Peer) (s : State) :
    TurnedAway err s (launch peer .line (ret (.error err) s)) := ⟨rfl, rfl, rfl, rfl, rfl⟩

/-! An evaluation of the block before the rejection changes none of these fields. -/

theorem TurnedAway.of_drive {err : Err} {f : InPorts → InPorts} {s u : State} (h : TurnedAway err (drive f s) u) :
    TurnedAway err s u := ⟨h.current, h.busLog, h.session, h.program, h.reports⟩

theorem TurnedAway.of_ret {err : Err} {r : OpResult} {s u : State} (h : TurnedAway err (ret r s) u) :
    TurnedAway err s u := ⟨h.current, h.busLog, h.session, h.program, h.reports⟩

theorem lookup_of_mem {p : Params} {e : CommandEntry} (he : e ∈ p.table) :
    ∃ pos e', lookup p e.mnemonic = .entry pos e' := by
  rcases lookup_cases p e.mnemonic with ⟨hnone, -⟩ | ⟨pos, e', -, -, -, hlookup⟩
  · exact absurd rfl (find_eq_none.mp hnone e he)
  · exact ⟨pos, e', hlookup⟩

/-- A Dac entry above 31 is ENC_CMD's OutOfRange, with the entry's index (R82, R106). -/
theorem encCmd_of_illegal {p : Params} {k : List Byte} {pos : Nat} {e : CommandEntry} (v : Value)
    (hfind : find p k = some pos) (he : p.table[pos]? = some e) (hdac : e.target.peripheral = .dac)
    (hidx : e.target.index.toNat > 31) : encCmd p k v = .error (.outOfRange e.target.index.toNat) := by
  obtain ⟨o, ho⟩ := encodeEntry_dac_outOfRange (p := p) v hdac hidx
  simp only [encCmd, lookup_of_find hfind he, ho]

/-- NotFound comes first, from the host for a key too long for its port (R77 (c)), else from LOOKUP. -/
theorem lineCommand_notFound {k : List Byte} {s : State} (hnone : ∀ e ∈ s.cfg.table, e.mnemonic ≠ k)
    (tok : List Char) : TurnedAway (.notFound k) s (lineCommand k tok s) := by
  unfold lineCommand
  split_ifs
  · exact turnedAway_reject _ s
  · simp only [lookup_of_find_none (find_eq_none.mpr hnone)]
    exact (turnedAway_reject _ _).of_ret.of_drive

/-- ParseError comes next, of a mnemonic that LOOKUP finds. -/
theorem lineCommand_badToken {k : List Byte} {tok : List Char} {pos : Nat} {e : CommandEntry} {r : ParseReason}
    {s : State} (hlen : k.length ≤ s.cfg.mnemMax) (hlookup : lookup s.cfg k = .entry pos e)
    (htok : parseValue tok = .error r) : TurnedAway (.parseError r tok) s (lineCommand k tok s) := by
  unfold lineCommand
  rw [if_neg (by omega)]
  simp only [hlookup, htok]
  exact (turnedAway_reject _ _).of_ret.of_drive

/-- What ENC_CMD rejects comes last. -/
theorem lineCommand_encCmd_error {k : List Byte} {tok : List Char} {pos : Nat} {e : CommandEntry} {v : Value}
    {err : Err} {s : State} (hlen : k.length ≤ s.cfg.mnemMax) (hlookup : lookup s.cfg k = .entry pos e)
    (htok : parseValue tok = .ok v) (henc : encCmd s.cfg k v = .error err) :
    TurnedAway err s (lineCommand k tok s) := by
  have hkey : keyOf (driveValue v (driveKey k s.inp)) = k := keyOf_driveKey k s.inp
  have hop : encCmdOp (drive (driveValue v) (lookupOp (drive (driveKey k) s))) =
      ret (.error err) (drive (driveValue v) (lookupOp (drive (driveKey k) s))) :=
    congrArg (ret · _) (hkey.symm ▸ henc)
  unfold lineCommand
  rw [if_neg (by omega)]
  simp only [hlookup, htok, hop]
  exact (turnedAway_launch_error err _ _).of_drive.of_ret.of_drive

theorem lineDacWrite_misfit {i v n : Int}
    (h : firstMisfit [(i, Config.mcuIndexMax), (v, Config.valueMax)] = some n) (s : State) :
    TurnedAway (.outOfRange n) s (lineDacWrite i v s) := by
  simp only [lineDacWrite, h]
  exact turnedAway_reject _ s

theorem lineDacRead_misfit {i n : Int} (h : firstMisfit [(i, Config.mcuIndexMax)] = some n) (s : State) :
    TurnedAway (.outOfRange n) s (lineDacRead i s) := by
  simp only [lineDacRead, h]
  exact turnedAway_reject _ s

/-- The block rejects an index from 32 on, with the integer the line gave (R106). -/
theorem outOfRange_byteOf {i : Int} (hi : 31 < i ∧ i ≤ 255) :
    (byteOf i).toNat > 31 ∧ Err.outOfRange ((byteOf i).toNat : Int) = .outOfRange i := by
  rw [toNat_byteOf (by omega), Err.outOfRange.injEq]
  omega

theorem lineDacWrite_illegal {i v : Int} (hi : 31 < i ∧ i ≤ 255) (hv : 0 ≤ v ∧ v ≤ 65535) (s : State) :
    TurnedAway (.outOfRange i) s (lineDacWrite i v s) := by
  obtain ⟨hidx, herr⟩ := outOfRange_byteOf hi
  rw [lineDacWrite_fits (by omega) hv, encDacWr_eq_outOfRange hidx, herr]
  exact (turnedAway_launch_error _ _ _).of_drive

theorem lineDacRead_illegal {i : Int} (hi : 31 < i ∧ i ≤ 255) (s : State) :
    TurnedAway (.outOfRange i) s (lineDacRead i s) := by
  obtain ⟨hidx, herr⟩ := outOfRange_byteOf hi
  rw [lineDacRead_fits (by omega), encDacRd_eq_outOfRange hidx, herr]
  exact (turnedAway_launch_error _ _ _).of_drive

/-- A first integer that does not fit is the one reported. -/
theorem firstMisfit_head {n : Int} {b : Nat} (h : ¬ (0 ≤ n ∧ n ≤ (b : Int))) (rest : List (Int × Nat)) :
    firstMisfit ((n, b) :: rest) = some n := if_neg h

/-- One that fits leaves it to the others. -/
theorem firstMisfit_tail {n : Int} {b : Nat} (h : 0 ≤ n ∧ n ≤ (b : Int)) (rest : List (Int × Nat)) :
    firstMisfit ((n, b) :: rest) = firstMisfit rest := if_pos h

/-- A line that is turned away where the session is ready leaves it running, with the remaining commands. -/
theorem SessionReady.step_turnedAway {s : State} {l : Line} {cs : List Command} {err : Err} (h : SessionReady s)
    (hprog : s.program = .line l :: cs)
    (hline : TurnedAway err { s with program := cs } (lineStep l { s with program := cs })) :
    ∃ u, step s = .next u ∧ u.current = none ∧ u.busLog = s.busLog ∧ u.session = .running ∧
      u.program = cs ∧ u.reports = s.reports ++ [.failure .line err] :=
  ⟨_, h.step_line hprog, hline.current.trans h.noTxn, hline.busLog, hline.session.trans h.running, hline.program,
    hline.reports⟩

/-- Settles O54: each of the seven conditions turns the line away, in the order of D24. -/
theorem validationErrorsMakeNoBusCall : Obligations.ValidationErrorsMakeNoBusCall := by
  unfold Obligations.ValidationErrorsMakeNoBusCall
  intro s l cs err h hprog herr
  refine h.step_turnedAway hprog ?_
  rcases herr with ⟨k, tok, rfl, hnone, rfl⟩ | ⟨k, tok, r, e, rfl, hlen, he, rfl, htok, rfl⟩ |
    ⟨k, tok, v, pos, e, rfl, hlen, hfind, he, htok, hdac, hidx, rfl⟩ | ⟨i, v, rfl, hi, rfl⟩ |
    ⟨i, v, rfl, hi0, hi, hv, rfl⟩ | ⟨i, v, rfl, hi, hi', hv0, hv, rfl⟩ | ⟨i, rfl, hi, rfl⟩
  · exact lineCommand_notFound (s := { s with program := cs }) hnone tok
  · obtain ⟨pos, e', hlookup⟩ := lookup_of_mem he
    exact lineCommand_badToken hlen hlookup htok
  · exact lineCommand_encCmd_error hlen (lookup_of_find hfind he) htok (encCmd_of_illegal v hfind he hdac hidx)
  · exact lineDacWrite_misfit (firstMisfit_head (by simp only [Config.mcuIndexMax]; omega) _) _
  · refine lineDacWrite_misfit ?_ _
    rw [firstMisfit_tail (by simp only [Config.mcuIndexMax]; omega)]
    exact firstMisfit_head (by simp only [Config.valueMax]; omega) _
  · exact lineDacWrite_illegal ⟨hi, hi'⟩ ⟨hv0, hv⟩ _
  · by_cases hfit : 0 ≤ i ∧ i ≤ 255
    · exact lineDacRead_illegal (by omega) _
    · exact lineDacRead_misfit (firstMisfit_head hfit _) _

/-! The stop request (R112, log entry 31). -/

theorem step_stopRequest {s : State} {es : List Event} (hrun : s.session = .running)
    (hev : s.events = .stopRequest :: es) : step s = .next { s with events := es, stop := true } := by
  unfold step machineStep
  simp only [hrun, hev]

/-- With nothing under way, a noted stop request comes before the next command. -/
theorem callerStep_stopped {s : State} (hcur : s.current = none) (hsweep : s.sweep.active = false)
    (hhelp : s.help = none) (hstop : s.stop = true) : callerStep s = .next (endSession .success s) := by
  unfold callerStep
  simp only [hcur, hsweep, hhelp, hstop, Bool.false_eq_true, if_false, if_true]

/-- Settles O51: the request is the step's first concern, and once noted the caller's where nothing is under way. -/
theorem stopRequestIsNotedThenObeyed : Obligations.StopRequestIsNotedThenObeyed := by
  unfold Obligations.StopRequestIsNotedThenObeyed
  refine ⟨fun s es hrun hev => step_stopRequest hrun hev, fun s hrun hreq hcur hsweep hhelp hstop => ?_⟩
  have hstep := (step_eq_callerStep hrun hreq).trans (callerStep_stopped hcur hsweep hhelp hstop)
  exact ⟨_, hstep, rfl, rfl⟩

end Sys2Proof.Machine
end

section
/-! PROOFS. The state at reset (R124), and the opening of the Bus Port (R104, R127). -/

namespace Sys2Proof.Machine

/-! The state at reset. -/

/-- Settles O50: each value is the one `State.reset` writes out. -/
theorem resetValues : Obligations.ResetValues := by
  unfold Obligations.ResetValues
  exact ⟨rfl, rfl, rfl, rfl, rfl, rfl, rfl, rfl, rfl, rfl, rfl, rfl, rfl⟩

/-- At reset the key is as long as the key port, all zeros, and none of it is given. -/
theorem inPortsReset_fits (cfg : Params) : PortsFit cfg (InPorts.reset cfg) :=
  ⟨List.length_replicate, Nat.zero_le _⟩

theorem reset_resting : Resting State.reset where
  noTxn := rfl
  free := rfl
  state := .inl rfl
  sweeping := nofun
  ports := inPortsReset_fits Config.instanceParams

/-- Settles O45: the machine is reset with nothing in flight. -/
theorem engineInvAtReset : Obligations.EngineInvAtReset := reset_resting.engineInv

/-! The opening of the Bus Port. -/

/-- Where the caller is ready and the port is wanting, a step opens the port and takes no command. -/
theorem step_eq_openStep {s : State} {c : Command} {cs : List Command} (h : Ready s) (hprog : s.program = c :: cs)
    (hneeds : needsPort c = true) (hport : s.port ≠ .opened) : step s = openStep s := by
  rw [step_eq_callerStep h.running h.noRequest]
  unfold callerStep
  have hopening : needsPort c = true ∧ s.port ≠ .opened := ⟨hneeds, hport⟩
  simp only [h.noTxn, h.noSweep, h.noHelp, h.noStop, hprog, if_pos hopening, Bool.false_eq_true, if_false]

theorem openStep_opened {s : State} {es : List Event} (hev : s.events = .opened true :: es) :
    openStep s = .next (setPort .opened (setEvents es s)) := by
  simp only [openStep, hev]

theorem openStep_failed {s : State} {es : List Event} (hev : s.events = .opened false :: es) :
    openStep s = .next (endSession .failure (report .openFailed (setEvents es s))) := by
  simp only [openStep, hev]

theorem openStep_waits {s : State} (hev : s.events = []) : openStep s = .next s := by
  simp only [openStep, hev]

/-- With nothing in flight and no enumeration under way, the session's end changes the session, the port and the sweep only. -/
theorem endSession_idle {s : State} (hcur : s.current = none) (hhelp : s.help = none) (e : ExitStatus) :
    endSession e s = { s with
      session := .ended e
      port := releasedPort s.port
      sweep := ⟨false, s.sweep.pos⟩ } := by
  rw [endSession, ← hcur, ← hhelp]

/-- Settles O34: the step is the port's opening; where that fails, the session's end finds nothing under way. -/
theorem busPortIsOpenedFirst : Obligations.BusPortIsOpenedFirst := by
  unfold Obligations.BusPortIsOpenedFirst
  intro s c cs es h hprog hneeds hport
  rw [step_eq_openStep h hprog hneeds hport]
  refine ⟨openStep_opened, fun hev => ?_, openStep_waits⟩
  rw [openStep_failed hev, endSession_idle (s := report .openFailed (setEvents es s)) h.noTxn h.noHelp]
  rfl

end Sys2Proof.Machine
end
